-- ==== Sys2Proof/Word.lean ====
section
/-! DEFINITION. The three value widths of the block: bytes (UInt8), 16-bit registers (UInt16) and 32-bit command and
response words (UInt32). Every value is unsigned and wraps modulo 2^N (rule R8); bit 0 is the least significant bit. -/

namespace Sys2Proof

/-- UInt8: a wire byte, a payload cell, `INDEX`, `HDR_TYPE`, `HDR_LEN` (rules R25, R26, R29). -/
abbrev Byte := BitVec 8

/-- UInt16: `ACC`, `CALC`, `RXCRC`, `STATUS` and the DATA field of a response (rules R22, R27, R28, R33, R75). -/
abbrev Half := BitVec 16

/-- UInt32: a command word or a response word (rules R70, R71, R75). -/
abbrev Word := BitVec 32

end Sys2Proof
end

