-- ==== Sys2Proof/Config.lean ====
section
/-! DEFINITION. The two configuration values the spec leaves to the implementation: `FRAME_SEED` (rule R5) and
`TYPE_TABLE` (rule R6). They are fixed for the block's lifetime (rules R2, R32). The constants that the spec does fix
(rule R7) stand in Machine/Params.lean. -/

namespace Sys2Proof

/-- `Config = (FRAME_SEED, TYPE_TABLE)` (rule R10) as plain data.
`typeTable` lists pairs (dataType code, declared size); a code that is listed nowhere is not a recognised dataType, and
the first pair of a code counts (log entry 3, DESIGN CHOICE, safe). -/
structure Config where
  /-- `FRAME_SEED : UInt16`, the seed of every frame's CRC (rule R5). -/
  frameSeed : Half
  /-- `TYPE_TABLE : UInt8 → Option UInt8` as the list of its recognised codes with their sizes (rule R6). -/
  typeTable : List (Byte × Byte)
  deriving DecidableEq, Repr, Inhabited

/-- The configuration that one device has. The source gives neither the seed nor the codes (rules R5 and R6, decisions
D5 and D9: a model must not hard-code either), so this constant has no body and nothing can be proved about its value
(log entry 2, safe). -/
opaque Config.device : Config

end Sys2Proof
end

