-- ==== Sys2Proof/Syntax.lean ====
section
/-! DEFINITION. The block's operations as syntax: `Instr`, one constructor per row of spec/opcode_table.json
(30_encoding.md rule R73); the eleven operation names with their operation codes and operand forms; the fields of a
command word (rule R71); and the pseudo-instructions (rule R79). -/

namespace Sys2Proof

/-- The eleven operations of rule R73, each with its operand (rule R72). The operand types are exactly the operand
ranges of rule R78, so every term of this type is a well-formed operation. -/
inductive Instr where
  /-- `CRC.LOAD seed` (rule R104). -/
  | crcLoad (seed : Half)
  /-- `CRC.BYTE b` (rule R105). -/
  | crcByte (b : Byte)
  /-- `CRC.READ` (rule R106). -/
  | crcRead
  /-- `DEC.FEED b` (rule R120). -/
  | decFeed (b : Byte)
  /-- `DEC.ACK` (rule R150). -/
  | decAck
  /-- `DEC.STATUS` (rule R151). -/
  | decStatus
  /-- `DEC.HDR` (rule R152). -/
  | decHdr
  /-- `DEC.PAY i` (rule R153). -/
  | decPay (i : Byte)
  /-- `DEC.RXCRC` (rule R154). -/
  | decRxcrc
  /-- `DEC.CALC` (rule R155). -/
  | decCalc
  /-- `DEC.RESET` (rule R156). -/
  | decReset
  deriving DecidableEq, Repr

/-- The operation names of rule R73, without operands. -/
inductive Op where
  | crcLoad | crcByte | crcRead
  | decFeed | decAck | decStatus | decHdr | decPay | decRxcrc | decCalc | decReset
  deriving DecidableEq, Repr

/-- Every operation name, in the order of rule R73's table. -/
def Op.all : List Op :=
  [.crcLoad, .crcByte, .crcRead, .decFeed, .decAck, .decStatus, .decHdr, .decPay, .decRxcrc, .decCalc, .decReset]

/-- The operand forms of rule R72. -/
inductive OperandForm where
  /-- `IMM[15:0]`, used unchanged. -/
  | imm16
  /-- `IMM[7:0]`; `IMM[15:8]` must be zero. -/
  | imm8
  /-- no operand; `IMM` must be zero. -/
  | none
  deriving DecidableEq, Repr

/-- The `OPC` column of rule R73. -/
def Op.opc : Op → BitVec 8
  | .crcLoad => 0x01#8
  | .crcByte => 0x02#8
  | .crcRead => 0x03#8
  | .decFeed => 0x10#8
  | .decAck => 0x11#8
  | .decStatus => 0x12#8
  | .decHdr => 0x13#8
  | .decPay => 0x14#8
  | .decRxcrc => 0x15#8
  | .decCalc => 0x16#8
  | .decReset => 0x17#8

/-- The operand column of rule R73. -/
def Op.form : Op → OperandForm
  | .crcLoad => .imm16
  | .crcByte | .decFeed | .decPay => .imm8
  | .crcRead | .decAck | .decStatus | .decHdr | .decRxcrc | .decCalc | .decReset => .none

/-- The operation an instruction performs. -/
def Instr.op : Instr → Op
  | .crcLoad _ => .crcLoad
  | .crcByte _ => .crcByte
  | .crcRead => .crcRead
  | .decFeed _ => .decFeed
  | .decAck => .decAck
  | .decStatus => .decStatus
  | .decHdr => .decHdr
  | .decPay _ => .decPay
  | .decRxcrc => .decRxcrc
  | .decCalc => .decCalc
  | .decReset => .decReset

/-- The fields of a command word (rule R71): `OPC[31:24]`, `RSV[23:16]`, `IMM[15:0]`. Any three values make a 32-bit
word; WellFormed.lean says which of them encode an operation. -/
structure Command where
  opc : BitVec 8
  rsv : BitVec 8
  imm : Half
  deriving DecidableEq, Repr

/-- An operation name with the operand an assembler was given, a number of any size or nothing (rule R78). -/
structure AsmCommand where
  op : Op
  operand : Option Nat
  deriving DecidableEq, Repr

/-- The pseudo-instructions of rule R79. -/
inductive Pseudo where
  /-- `CRC.CLEAR` -/
  | crcClear
  /-- `CRC.CALC seed, b0, …, bn-1` -/
  | crcCalc (seed : Half) (bytes : List Byte)
  /-- `DEC.STREAM b0, …, bn-1` -/
  | decStream (bytes : List Byte)
  /-- `DEC.READPKT` -/
  | decReadpkt
  deriving DecidableEq, Repr

end Sys2Proof
end

