-- ==== Sys2Proof/WellFormed.lean ====
section
/-! DEFINITION. Which command words (rules R72, R84) and which assembler commands (rule R78) encode an operation. An
`Instr` needs no check: its operand types are the ranges of rule R78. -/

namespace Sys2Proof

/-- The operation with operation code `c`, if `c` is not one of the reserved values of rule R73. -/
def Op.ofOpc (c : BitVec 8) : Option Op :=
  Op.all.find? fun o => o.opc == c

/-- The bits of `IMM` that an operand form does not use are zero (rule R72). -/
def OperandForm.unusedZero : OperandForm → Half → Bool
  | .imm16, _ => true
  | .imm8, imm => imm.extractLsb' 8 8 == 0#8
  | .none, imm => imm == 0#16

/-- A command word encodes an operation: its `OPC` is not reserved, its `RSV` is zero, and the `IMM` bits that the
operation does not use are zero (rules R72, R84). -/
def Command.wellFormed (c : Command) : Bool :=
  c.rsv == 0#8 &&
    match Op.ofOpc c.opc with
    | some o => o.form.unusedZero c.imm
    | none => false

/-- The operand ranges of rule R78: 0 to 65535, 0 to 255, or no operand. -/
def OperandForm.admits : OperandForm → Option Nat → Bool
  | .imm16, some n => decide (n < 65536)
  | .imm8, some n => decide (n < 256)
  | .none, .none => true
  | .imm16, .none => false
  | .imm8, .none => false
  | .none, some _ => false

/-- An assembler accepts the command: its operand is in range (rule R78: it rejects an operand out of range rather than
truncating it). -/
def AsmCommand.wellFormed (c : AsmCommand) : Bool :=
  c.op.form.admits c.operand

end Sys2Proof
end

