-- ==== Sys2Proof/Decode.lean ====
section
/-! DEFINITION. Command words to operations and back (30_encoding.md rules R71 to R74, R84, R85). `decode` is total on
every 32-bit word and follows the pseudocode of rule R74 over the match and mask columns of rule R73; a word that
matches no row is rejected by a name that says which clause of rule R84 it falls under. -/

namespace Sys2Proof

/-- One row of rule R73: an operation with its `match` and `mask` words. -/
structure OpcodeRow where
  op : Op
  pattern : Word
  mask : Word
  deriving DecidableEq, Repr

/-- Rule R73's opcode map, the match and mask columns as the spec prints them. -/
def opcodeTable : List OpcodeRow :=
  [ ⟨.crcLoad,   0x01000000#32, 0xFFFF0000#32⟩,
    ⟨.crcByte,   0x02000000#32, 0xFFFFFF00#32⟩,
    ⟨.crcRead,   0x03000000#32, 0xFFFFFFFF#32⟩,
    ⟨.decFeed,   0x10000000#32, 0xFFFFFF00#32⟩,
    ⟨.decAck,    0x11000000#32, 0xFFFFFFFF#32⟩,
    ⟨.decStatus, 0x12000000#32, 0xFFFFFFFF#32⟩,
    ⟨.decHdr,    0x13000000#32, 0xFFFFFFFF#32⟩,
    ⟨.decPay,    0x14000000#32, 0xFFFFFF00#32⟩,
    ⟨.decRxcrc,  0x15000000#32, 0xFFFFFFFF#32⟩,
    ⟨.decCalc,   0x16000000#32, 0xFFFFFFFF#32⟩,
    ⟨.decReset,  0x17000000#32, 0xFFFFFFFF#32⟩ ]

/-- A word matches a row: `(w & r.mask) == r.match` (rule R74). -/
def OpcodeRow.accepts (r : OpcodeRow) (w : Word) : Bool :=
  w &&& r.mask == r.pattern

/-- `OPC`, bits [31:24] (rule R71). -/
def opcField (w : Word) : BitVec 8 := w.extractLsb' 24 8

/-- `RSV`, bits [23:16] (rule R71). -/
def rsvField (w : Word) : BitVec 8 := w.extractLsb' 16 8

/-- `IMM`, bits [15:0] (rule R71). -/
def immField (w : Word) : Half := w.extractLsb' 0 16

/-- The operand of an `imm8` operation, `IMM[7:0]` (rule R72). -/
def immByte (w : Word) : Byte := w.extractLsb' 0 8

/-- The fields of a word (rule R71). -/
def commandOf (w : Word) : Command := ⟨opcField w, rsvField w, immField w⟩

/-- An operation with the operand its word carries; no operand is sign-extended, scaled or shifted (rule R72). -/
def Op.withOperand (o : Op) (w : Word) : Instr :=
  match o with
  | .crcLoad => .crcLoad (immField w)
  | .crcByte => .crcByte (immByte w)
  | .crcRead => .crcRead
  | .decFeed => .decFeed (immByte w)
  | .decAck => .decAck
  | .decStatus => .decStatus
  | .decHdr => .decHdr
  | .decPay => .decPay (immByte w)
  | .decRxcrc => .decRxcrc
  | .decCalc => .decCalc
  | .decReset => .decReset

/-- The four kinds of illegal word that rule R84 lists. All four get the same `ILLEGAL` response; the names serve the
reader only (log entry 14, DESIGN CHOICE, safe). -/
inductive Illegal where
  /-- a reserved `OPC` -/
  | reservedOpc
  /-- `RSV ≠ 0` -/
  | rsvNonzero
  /-- an `imm8` operation with `IMM[15:8] ≠ 0` -/
  | immHighNonzero
  /-- a `none` operation with `IMM ≠ 0` -/
  | immNonzero
  deriving DecidableEq, Repr

/-- The first clause of rule R84 that a word breaks, in the order of the list there; used on words that no row
accepts. -/
def illegalCause (w : Word) : Illegal :=
  match Op.ofOpc (opcField w) with
  | none => .reservedOpc
  | some o =>
    if rsvField w ≠ 0#8 then .rsvNonzero
    else match o.form with
      | .imm8 => .immHighNonzero
      | .imm16 => .immNonzero
      | .none => .immNonzero

/-- Rule R74: the operation of the row that accepts the word, or a rejection (`ILLEGAL`). -/
def decode (w : Word) : Except Illegal Instr :=
  match opcodeTable.find? fun r => r.accepts w with
  | some r => .ok (r.op.withOperand w)
  | none => .error (illegalCause w)

/-- The `IMM` field of an operation's word (rule R72): the operand, zero-extended, or zero. -/
def Instr.imm : Instr → Half
  | .crcLoad seed => seed
  | .crcByte b => b.setWidth 16
  | .decFeed b => b.setWidth 16
  | .decPay i => i.setWidth 16
  | .crcRead | .decAck | .decStatus | .decHdr | .decRxcrc | .decCalc | .decReset => 0#16

/-- The fields of an operation's command word (rules R71 to R73). -/
def Instr.command (i : Instr) : Command := ⟨i.op.opc, 0#8, i.imm⟩

/-- A command word from its fields (rule R71): `{OPC[7:0], RSV[7:0], IMM[15:0]}`. -/
def Command.word (c : Command) : Word := c.opc ++ c.rsv ++ c.imm

/-- The one command word of an operation (rules R71 to R73, R85). -/
def encode (i : Instr) : Word := i.command.word

/-- The operation the decoder reads from the table word `w` of `nbits` bits, bit 0 the least significant bit of the
command word; bits above `nbits` are zero (rules R71, R85: every command is exactly one 32-bit word). -/
def decodeTableWord (nbits w : Nat) : Option Instr :=
  if nbits ≤ 32 ∧ w < 2 ^ nbits then
    match decode (BitVec.ofNat 32 w) with
    | .ok i => some i
    | .error _ => none
  else none

end Sys2Proof
end

