-- ==== Sys2Proof/Machine/State.lean ====
section
/-! DEFINITION. The architectural state of 10_state.md (rules R20 to R30) as plain data, the two host-side lists through
which commands come in and responses go out (rules R10, R70, R200), the reasons a step can stop, and the state after a
hardware reset (rules R34, R190). -/

namespace Sys2Proof.Machine

/-- `PHASE` (rule R23). Its code 7 is reserved and never held, so it has no constructor (log entry 13, DEDUCED, safe).
The codes are in Flags.lean. -/
inductive Phase where
  | waitSync1 | waitSync2 | readHeader | readPayload | verifyCrc | loaded | failure
  deriving DecidableEq, Repr

/-- `REASON` (rule R24). Its code 3 is reserved and never held, so it has no constructor (log entry 13). -/
inductive Reason where
  | none | unknownType | checksum
  deriving DecidableEq, Repr

/-- The response codes `RC` of rule R76. Codes 4 to 15 are never produced and have no constructor (log entry 13). -/
inductive RespCode where
  | ok | busy | invalid | illegal
  deriving DecidableEq, Repr

/-- The payload buffer's contents: the written cells, by index (rule R26), as (index, byte) pairs with strictly rising
indices. A cell that is not listed is unwritten and holds no value (log entry 8). -/
abbrev Memory := List Host.Cell

/-- One thing the outside does to the block in one step (rule R70): a command word, the hardware reset (rule R190), or
both in the same step (rule R176). -/
inductive HostInput where
  /-- the host gives one command word -/
  | command (w : Word)
  /-- the reset input is asserted -/
  | reset
  /-- the reset input is asserted and a command word arrives in the same step -/
  | resetAndCommand (w : Word)
  deriving DecidableEq, Repr

/-- Why a step can stop with a fault. The spec's block never stops (rule R76); these two stand for accesses to the
payload buffer that the spec proves cannot happen (rules R26, R129), and they can arise only in states that no run
reaches. -/
inductive Fault where
  /-- Raised by `DEC.FEED` in READ_PAYLOAD with `INDEX = 255`, and by `DEC.PAY` were it to read there: `PAY[255]` does
  not exist (rule R26). Safe (log entry 9). -/
  | payNoCell
  /-- Raised by `DEC.PAY` when the cell it reads was never written: the spec gives such a cell no value (rule R26).
  Safe (log entry 8). -/
  | payUnwritten
  deriving DecidableEq, Repr

/-- Why a step can be refused. -/
inductive Refusal where
  /-- Raised by an arm of `exec` whose instruction has no meaning yet. No arm of this model raises it. Safe. -/
  | notModelled (mnemonic : String)
  deriving DecidableEq, Repr

/-- The block with its configuration and its command port. -/
structure State where
  /-- `FRAME_SEED` and `TYPE_TABLE`, the parameters of the step (rules R5, R6, R10). No step changes them (rule R32; log
  entry 1, DESIGN CHOICE, safe). -/
  cfg : Config
  /-- `ACC`, the CRC unit's accumulator (rule R22). -/
  acc : Half
  /-- `PHASE` (rule R23). -/
  phase : Phase
  /-- `REASON` (rule R24). -/
  reason : Reason
  /-- `INDEX` (rule R29). -/
  index : Byte
  /-- `HDR_TYPE` (rule R25). -/
  hdrType : Byte
  /-- `HDR_LEN` (rule R25). -/
  hdrLen : Byte
  /-- `PAY[0..254]` (rule R26). -/
  pay : Memory
  /-- `RXCRC` (rule R27). -/
  rxcrc : Half
  /-- `CALC`, the decoder's own accumulator (rule R28). -/
  calcReg : Half
  /-- What the outside has sent and the block has not yet taken, oldest first (rules R59, R70; log entry 4). -/
  inputs : List HostInput
  /-- The response words given so far, newest first (rules R70, R200; log entry 6). -/
  responses : List Word
  deriving DecidableEq, Repr

/-- The state after a hardware reset of a block with configuration `cfg` (rules R34, R190), with no input waiting and no
response given yet. -/
def State.resetWith (cfg : Config) : State where
  cfg := cfg
  acc := 0x0000#16
  phase := .waitSync1
  reason := .none
  index := 0#8
  hdrType := 0x00#8
  hdrLen := 0x00#8
  pay := []
  rxcrc := 0x0000#16
  calcReg := cfg.frameSeed
  inputs := []
  responses := []

/-- The state after a hardware reset of the device, whose configuration is left open (rules R5, R6; log entry 2). -/
def State.reset : State := State.resetWith Config.device

end Sys2Proof.Machine
end

