-- ==== Sys2Proof/Machine/Params.lean ====
section
/-! DEFINITION. The fixed constants of rule R7 and the lookup in `TYPE_TABLE` (rule R6). -/

namespace Sys2Proof.Machine

/-- `SYNC1 = 0x0A` (rule R7). -/
def sync1 : Byte := 0x0A#8

/-- `SYNC2 = 0x55` (rule R7). -/
def sync2 : Byte := 0x55#8

/-- `POLY = 0x1021` (rule R7). -/
def poly : Half := 0x1021#16

/-- `MAX_PAYLOAD = 255`, which is also the number of cells of `PAY` (rules R7, R26). -/
def maxPayload : Nat := 255

/-- `TYPE_TABLE(code)`: the declared size of a recognised dataType, or `none` (rule R6). -/
def typeSize (cfg : Config) (code : Byte) : Option Byte :=
  cfg.typeTable.lookup code

end Sys2Proof.Machine
end

