-- ==== Sys2Proof/Machine/Flags.lean ====
section
/-! DEFINITION. The codes of `PHASE`, `REASON` and `RC` (rules R23, R24, R76), the `STATUS` view (rule R33), and the two
conditions computed from the flags: held (rule R31) and payload complete (rules R153, R154). -/

namespace Sys2Proof.Machine

/-- The 3-bit code of a phase (rule R23). -/
def Phase.code : Phase → BitVec 3
  | .waitSync1 => 0#3
  | .waitSync2 => 1#3
  | .readHeader => 2#3
  | .readPayload => 3#3
  | .verifyCrc => 4#3
  | .loaded => 5#3
  | .failure => 6#3

/-- The 2-bit code of a failure reason (rule R24). -/
def Reason.code : Reason → BitVec 2
  | .none => 0#2
  | .unknownType => 1#2
  | .checksum => 2#2

/-- The 4-bit response code `RC` (rule R76). -/
def RespCode.code : RespCode → BitVec 4
  | .ok => 0x0#4
  | .busy => 0x1#4
  | .invalid => 0x2#4
  | .illegal => 0x3#4

/-- The `COARSE` field of `STATUS` (rule R33): 0 Idle, 1 Accumulating, 2 Loaded, 3 Failure. -/
def Phase.coarse : Phase → BitVec 2
  | .waitSync1 | .waitSync2 => 0#2
  | .readHeader | .readPayload | .verifyCrc => 1#2
  | .loaded => 2#2
  | .failure => 3#2

/-- `STATUS = {INDEX[7:0], REASON[1:0], COARSE[1:0], 0b0, PHASE[2:0]}` (rule R33). -/
def State.status (s : State) : Half :=
  s.index ++ s.reason.code ++ s.phase.coarse ++ 0#1 ++ s.phase.code

/-- A phase is one of the two held ones (rule R31). -/
def Phase.held : Phase → Bool
  | .loaded | .failure => true
  | .waitSync1 | .waitSync2 | .readHeader | .readPayload | .verifyCrc => false

/-- The decoder is held: `PHASE ∈ {LOADED, FAILURE}` (rule R31). -/
def State.held (s : State) : Bool := s.phase.held

/-- `payload_complete` of rule R153, and the same condition in rule R154: LOADED, or FAILURE with reason CHECKSUM. -/
def State.payloadComplete (s : State) : Bool :=
  s.phase == .loaded || (s.phase == .failure && s.reason == .checksum)

end Sys2Proof.Machine
end

