-- ==== Sys2Proof/Machine/Operands.lean ====
section
/-! DEFINITION. The operand forms an instruction's meaning uses, after decoding (rules R8, R72): a 16-bit value as it is,
a byte widened into 16 bits by zero extension, two bytes packed into 16 bits (rule R53), and the two bytes of a
16-bit value (rule R52). -/

namespace Sys2Proof.Machine

/-- `zext_16(b)` (rules R8, R72, R153). -/
def zext16 (b : Byte) : Half := b.setWidth 16

/-- `{hi, lo}`: `hi` in bits [15:8] and `lo` in bits [7:0] (rules R8, R53, R152). -/
def packBytes (hi lo : Byte) : Half := hi ++ lo

/-- The low byte `v[7:0]` of a 16-bit value (rules R8, R52). -/
def lowByte (v : Half) : Byte := v.extractLsb' 0 8

/-- The high byte `v[15:8]` of a 16-bit value (rules R8, R52). -/
def highByte (v : Half) : Byte := v.extractLsb' 8 8

end Sys2Proof.Machine
end

