-- ==== Sys2Proof/Machine/Ops.lean ====
section
/-! DEFINITION. The named operations that the instructions share: register writes, the payload buffer (rules R9, R26,
R50), `respond` (rules R9, R75), recording a frame outcome and releasing it (rules R170, R171, R177, R178), the hardware
reset (rule R190), the illegal word (rule R84) and taking the next input (rules R59, R70). -/

namespace Sys2Proof.Machine

/-! ### Register writes -/

/-- `ACC <- v`. -/
def State.setAcc (v : Half) (s : State) : State := { s with acc := v }

/-- `PHASE <- p`. -/
def State.setPhase (p : Phase) (s : State) : State := { s with phase := p }

/-- `INDEX <- i`. -/
def State.setIndex (i : Byte) (s : State) : State := { s with index := i }

/-- `REASON <- r`. -/
def State.setReason (r : Reason) (s : State) : State := { s with reason := r }

/-- `HDR_TYPE <- b`. -/
def State.setHdrType (b : Byte) (s : State) : State := { s with hdrType := b }

/-- `HDR_LEN <- b`. -/
def State.setHdrLen (b : Byte) (s : State) : State := { s with hdrLen := b }

/-- `CALC <- v`. -/
def State.setCalc (v : Half) (s : State) : State := { s with calcReg := v }

/-- `RXCRC <- v`. -/
def State.setRxcrc (v : Half) (s : State) : State := { s with rxcrc := v }

/-- The payload buffer's contents become `m`. -/
def State.setPay (m : Memory) (s : State) : State := { s with pay := m }

/-- The waiting inputs become `q`. -/
def State.setInputs (q : List HostInput) (s : State) : State := { s with inputs := q }

/-- `CALC <- crc_step(CALC, b)` (rules R124, R125, R127). -/
def State.absorb (b : Byte) (s : State) : State := s.setCalc (crcStep s.calcReg b)

/-- `RXCRC[7:0] <- b`; `RXCRC[15:8]` is unchanged (rule R128). -/
def State.setRxLow (b : Byte) (s : State) : State := s.setRxcrc (packBytes (highByte s.rxcrc) b)

/-- `RXCRC[15:8] <- b`; `RXCRC[7:0]` is unchanged (rule R128). -/
def State.setRxHigh (b : Byte) (s : State) : State := s.setRxcrc (packBytes b (lowByte s.rxcrc))

/-! ### Responses -/

/-- A response word `{RC[3:0], 0x000, data[15:0]}` (rule R75). -/
def respWord (rc : RespCode) (data : Half) : Word := rc.code ++ 0x000#12 ++ data

/-- `respond(RC, data)` (rules R9, R75): the operation's one response word. -/
def State.respond (rc : RespCode) (data : Half) (s : State) : State :=
  { s with responses := respWord rc data :: s.responses }

/-- `respond(RC, STATUS)`, with the `STATUS` of the state as it now is (rules R77, R120). -/
def State.respondStatus (rc : RespCode) (s : State) : State := s.respond rc s.status

/-- A word that encodes no operation: the `ILLEGAL` response with `DATA = 0x0000`, and no state changes (rules R77,
R84). -/
def illegal (s : State) : Host.Outcome State Fault Refusal := .next (s.respond .illegal 0x0000#16)

/-! ### The payload buffer -/

/-- The contents of cell `i`, if it was written (rule R26). -/
def Memory.read : Memory → Nat → Option Byte
  | [], _ => none
  | (a, b) :: m, i => if i = a then some b else Memory.read m i

/-- Cell `i` becomes `v`; every other cell keeps its contents. The list stays in rising order of index. -/
def Memory.write : Memory → Nat → Byte → Memory
  | [], i, v => [(i, v)]
  | (a, b) :: m, i, v =>
    if i < a then (i, v) :: (a, b) :: m
    else if i = a then (i, v) :: m
    else (a, b) :: Memory.write m i v

/-- Every listed index is at least `lo`, indices rise strictly, and each is that of a cell that exists. -/
def Memory.risesFrom : Nat → Memory → Bool
  | _, [] => true
  | lo, (a, _) :: m => decide (lo ≤ a) && decide (a < maxPayload) && Memory.risesFrom (a + 1) m

/-- The canonical form of a payload buffer: strictly rising indices, all of them of cells `0..254` (rules R26, R50). An
unlisted cell has no value, so no entry can equal what an unlisted cell reads as. -/
def Memory.wf (m : Memory) : Bool := Memory.risesFrom 0 m

/-- `PAY[i] <- b` (rules R9, R127). Cell 255 does not exist (rule R26). -/
def storePay (i b : Byte) (s : State) : Host.Outcome State Fault Refusal :=
  if i.toNat < maxPayload then .next (s.setPay (s.pay.write i.toNat b)) else .fault .payNoCell

/-- `PAY[i]` (rules R9, R153). A cell that was never written has no value (rule R26). -/
def loadPay (i : Byte) (s : State) : Except Fault Byte :=
  if i.toNat < maxPayload then
    match s.pay.read i.toNat with
    | some b => .ok b
    | none => .error .payUnwritten
  else .error .payNoCell

/-! ### Frame outcomes -/

/-- `raise Failure(reason)` (rules R9, R170, R177): `PHASE <- FAILURE`, `REASON <- r`, `INDEX <- 0`. The outcome is
recorded and held; nothing traps. -/
def State.raiseFailure (r : Reason) (s : State) : State := ((s.setPhase .failure).setReason r).setIndex 0#8

/-- The success outcome (rules R171, R177): `PHASE <- LOADED`, `INDEX <- 0`; `REASON` keeps its value NONE. -/
def State.enterLoaded (s : State) : State := (s.setPhase .loaded).setIndex 0#8

/-- The return from a held outcome (rules R150, R178): `PHASE <- WAIT_SYNC1`, `REASON <- NONE`, `INDEX <- 0`. -/
def State.release (s : State) : State := ((s.setPhase .waitSync1).setReason .none).setIndex 0#8

/-! ### Inputs and reset -/

/-- Every state element takes its value after a hardware reset (rules R34, R190). The configuration is fixed (rule R32);
the inputs still waiting and the responses already given are the host's (log entry 7). -/
def hardwareReset (s : State) : State :=
  { State.resetWith s.cfg with inputs := s.inputs, responses := s.responses }

/-- The oldest waiting input, and the state with it taken (rule R59: operations take effect one at a time, in the order
the host issues them). -/
def takeInput (s : State) : Option (HostInput × State) :=
  match s.inputs with
  | [] => none
  | x :: rest => some (x, s.setInputs rest)

/-- A step in which nothing comes in: the block keeps its state and gives no response (rule R138; log entry 5, DESIGN
CHOICE). -/
def idle (s : State) : Host.Outcome State Fault Refusal := .next s

/-- Apply a change of state to an outcome that is a next state; a stop stays as it is. -/
def andThen (o : Host.Outcome State Fault Refusal) (f : State → State) : Host.Outcome State Fault Refusal :=
  match o with
  | .next s => .next (f s)
  | .fault r => .fault r
  | .refused r => .refused r

end Sys2Proof.Machine
end

