-- ==== Sys2Proof/Machine/Access.lean ====
section
/-! DEFINITION. The meanings of the acknowledge, the read-outs and the decoder reset (42_decoder_access.md, rules R150 to
R156). -/

namespace Sys2Proof.Machine

/-- `DEC.ACK` (rule R150): releases a held decoder; `INVALID` when nothing is held. -/
def execDecAck (s : State) : Host.Outcome State Fault Refusal :=
  if s.held then .next (s.release.respondStatus .ok) else .next (s.respondStatus .invalid)

/-- `DEC.STATUS` (rule R151). -/
def execDecStatus (s : State) : Host.Outcome State Fault Refusal :=
  .next (s.respond .ok s.status)

/-- `DEC.HDR` (rule R152): `{HDR_LEN, HDR_TYPE}` while held. -/
def execDecHdr (s : State) : Host.Outcome State Fault Refusal :=
  if s.held then .next (s.respond .ok (packBytes s.hdrLen s.hdrType)) else .next (s.respondStatus .invalid)

/-- `DEC.PAY i` (rule R153): `zext_16(PAY[i])` when the payload is complete and `i < HDR_LEN`. -/
def execDecPay (i : Byte) (s : State) : Host.Outcome State Fault Refusal :=
  if s.payloadComplete && decide (i.toNat < s.hdrLen.toNat) then
    match loadPay i s with
    | .ok b => .next (s.respond .ok (zext16 b))
    | .error r => .fault r
  else .next (s.respondStatus .invalid)

/-- `DEC.RXCRC` (rule R154): `RXCRC` when the trailer is complete. -/
def execDecRxcrc (s : State) : Host.Outcome State Fault Refusal :=
  if s.payloadComplete then .next (s.respond .ok s.rxcrc) else .next (s.respondStatus .invalid)

/-- `DEC.CALC` (rule R155): valid in every phase. -/
def execDecCalc (s : State) : Host.Outcome State Fault Refusal :=
  .next (s.respond .ok s.calcReg)

/-- The decoder's registers take their values after `DEC.RESET` (rules R34, R156). `PAY` and `ACC` are unchanged. -/
def State.resetDecoder (s : State) : State :=
  ((((s.release).setHdrType 0x00#8).setHdrLen 0x00#8).setRxcrc 0x0000#16).setCalc s.cfg.frameSeed

/-- `DEC.RESET` (rule R156): from any phase, and always `OK`. -/
def execDecReset (s : State) : Host.Outcome State Fault Refusal :=
  .next (s.resetDecoder.respondStatus .ok)

end Sys2Proof.Machine
end

