-- ==== Sys2Proof/Machine/CrcUnit.lean ====
section
/-! DEFINITION. The meanings of the CRC unit's three operations (40_crc16.md section 2). They read and write only `ACC`
(rule R63). -/

namespace Sys2Proof.Machine

/-- `CRC.LOAD seed` (rule R104): `ACC <- seed`, respond with the new `ACC`. -/
def execCrcLoad (seed : Half) (s : State) : Host.Outcome State Fault Refusal :=
  let t := s.setAcc seed
  .next (t.respond .ok t.acc)

/-- `CRC.BYTE b` (rule R105): `ACC <- crc_step(ACC, b)`, respond with the new `ACC`. -/
def execCrcByte (b : Byte) (s : State) : Host.Outcome State Fault Refusal :=
  let t := s.setAcc (crcStep s.acc b)
  .next (t.respond .ok t.acc)

/-- `CRC.READ` (rule R106): respond with `ACC`. -/
def execCrcRead (s : State) : Host.Outcome State Fault Refusal :=
  .next (s.respond .ok s.acc)

end Sys2Proof.Machine
end

