-- ==== Sys2Proof/Machine/Feed.lean ====
section
/-! DEFINITION. `DEC.FEED` (41_frame_decoder.md): one function per arm of rule R120, each written from its own rule
(rules R121 to R128). -/

namespace Sys2Proof.Machine

/-- `WAIT_SYNC1` (rule R121): `SYNC1` leads to `WAIT_SYNC2`; any other byte is discarded. -/
def stepSync1 (b : Byte) (s : State) : State :=
  if b = sync1 then s.setPhase .waitSync2 else s

/-- `enter_header()` (rule R123). -/
def enterHeader (s : State) : State :=
  ((s.setPhase .readHeader).setIndex 0#8).setCalc s.cfg.frameSeed

/-- `WAIT_SYNC2` (rule R122): `SYNC2` completes the sync, `SYNC1` may start it anew, anything else goes back to
`WAIT_SYNC1`. -/
def stepSync2 (b : Byte) (s : State) : State :=
  if b = sync2 then enterHeader s
  else if b = sync1 then s.setPhase .waitSync2
  else s.setPhase .waitSync1

/-- `READ_HEADER`, header byte 0 (rule R124). -/
def stepHdr0 (b : Byte) (s : State) : State :=
  ((s.setHdrType b).absorb b).setIndex 1#8

/-- `READ_HEADER`, header byte 1 (rules R125, R126): an unknown type fails first; else a zero length goes straight to
the CRC bytes; else the payload follows. -/
def stepHdr1 (b : Byte) (s : State) : State :=
  let t := ((s.setHdrLen b).absorb b).setIndex 0#8
  if (typeSize t.cfg t.hdrType).isNone then t.raiseFailure .unknownType
  else if t.hdrLen = 0#8 then t.setPhase .verifyCrc
  else t.setPhase .readPayload

/-- `READ_PAYLOAD` (rule R127). -/
def stepPayload (b : Byte) (s : State) : Host.Outcome State Fault Refusal :=
  andThen (storePay s.index b s) fun t =>
    let u := t.absorb b
    if u.index + 1#8 = u.hdrLen then (u.setPhase .verifyCrc).setIndex 0#8 else u.setIndex (u.index + 1#8)

/-- `VERIFY_CRC` (rule R128): the low trailer byte, then the high one and the comparison. -/
def stepCrc (b : Byte) (s : State) : State :=
  if s.index = 0#8 then (s.setRxLow b).setIndex 1#8
  else
    let t := (s.setRxHigh b).setIndex 0#8
    if t.rxcrc = t.calcReg then t.enterLoaded else t.raiseFailure .checksum

/-- The `case PHASE of` of rule R120. The two held phases take no byte (rule R131): `execDecFeed` answers `BUSY` before
it gets here. -/
def consumeByte (b : Byte) (s : State) : Host.Outcome State Fault Refusal :=
  match s.phase with
  | .waitSync1 => .next (stepSync1 b s)
  | .waitSync2 => .next (stepSync2 b s)
  | .readHeader => if s.index = 0#8 then .next (stepHdr0 b s) else .next (stepHdr1 b s)
  | .readPayload => stepPayload b s
  | .verifyCrc => .next (stepCrc b s)
  | .loaded => .next s
  | .failure => .next s

/-- `DEC.FEED b` (rules R120, R131): `BUSY` while held; otherwise the phase's arm and then `OK` with the new
`STATUS`. -/
def execDecFeed (b : Byte) (s : State) : Host.Outcome State Fault Refusal :=
  if s.held then .next (s.respondStatus .busy)
  else andThen (consumeByte b s) fun t => t.respondStatus .ok

end Sys2Proof.Machine
end

