-- ==== Sys2Proof/Machine/Dispatch.lean ====
section
/-! DEFINITION. One arm per operation of rule R73: the operation's meaning. -/

namespace Sys2Proof.Machine

def exec (i : Instr) (s : State) : Host.Outcome State Fault Refusal :=
  match i with
  | .crcLoad seed => Sys2Proof.Machine.execCrcLoad seed s
  | .crcByte b => Sys2Proof.Machine.execCrcByte b s
  | .crcRead => Sys2Proof.Machine.execCrcRead s
  | .decFeed b => Sys2Proof.Machine.execDecFeed b s
  | .decAck => Sys2Proof.Machine.execDecAck s
  | .decStatus => Sys2Proof.Machine.execDecStatus s
  | .decHdr => Sys2Proof.Machine.execDecHdr s
  | .decPay k => Sys2Proof.Machine.execDecPay k s
  | .decRxcrc => Sys2Proof.Machine.execDecRxcrc s
  | .decCalc => Sys2Proof.Machine.execDecCalc s
  | .decReset => Sys2Proof.Machine.execDecReset s

end Sys2Proof.Machine
end

