-- ==== Sys2Proof/Machine/Run.lean ====
section
/-! DEFINITION. Executing one command word (rules R10, R74, R84) and a sequence of operations in the order the host
issues them (rules R59, R200). -/

namespace Sys2Proof.Machine

/-- One command word: the operation it encodes, or the `ILLEGAL` response (rules R10, R84, R175: decoding is checked
before anything else). -/
def runCommand (w : Word) (s : State) : Host.Outcome State Fault Refusal :=
  match decode w with
  | .ok i => exec i s
  | .error _ => illegal s

/-- Operations one after another, each from the state the one before it left; a stop ends the sequence. -/
def execAll : List Instr → State → Host.Outcome State Fault Refusal
  | [], s => .next s
  | i :: rest, s =>
    match exec i s with
    | .next t => execAll rest t
    | .fault r => .fault r
    | .refused r => .refused r

/-- The bytes fed one by one (rule R79, `DEC.STREAM`). -/
def feedAll (bytes : List Byte) (s : State) : Host.Outcome State Fault Refusal :=
  execAll (bytes.map Instr.decFeed) s

end Sys2Proof.Machine
end

