-- ==== Sys2Proof/Machine/Step.lean ====
section
/-! DEFINITION. One step (rules R10, R11, R70): the block takes the oldest waiting input and acts on it, whole and at
once. -/

namespace Sys2Proof.Machine

/-- One step: a command word is run; a hardware reset replaces the state and gives no response, and it wins over a
command in the same step (rules R176, R190); with no input the block keeps its state (log entry 5). -/
def step (s : State) : Host.Outcome State Fault Refusal :=
  match takeInput s with
  | none => idle s
  | some (.command w, t) => runCommand w t
  | some (.reset, t) => .next (hardwareReset t)
  | some (.resetAndCommand _, t) => .next (hardwareReset t)

/-- The same state with the command word `w` placed where the next step takes its input (log entry 4); bits above
`nbits` are zero. -/
def State.withFetchWord (s : State) (nbits w : Nat) : State :=
  s.setInputs (.command (BitVec.ofNat 32 (w % 2 ^ nbits)) :: s.inputs)

end Sys2Proof.Machine
end

