-- ==== Sys2Proof/Machine/Assembler.lean ====
section
/-! DEFINITION. The assembler of 30_encoding.md section 3: one command per line (rule R78) and the pseudo-instructions
(rule R79). What rule R78 leaves open (which characters separate words, that a comma separates operands, that `0x` is
written in lower case) is chosen in log entry 11 (DESIGN CHOICE, safe: no claim about the block rests on it). -/

namespace Sys2Proof.Machine

/-- Why a line is rejected. -/
inductive AsmError where
  | unknownMnemonic
  | badNumber
  | operandOutOfRange
  | operandCount
  deriving DecidableEq, Repr

/-- What one line holds. -/
inductive AsmItem where
  | instr (i : Instr)
  | pseudo (p : Pseudo)
  deriving DecidableEq, Repr

/-- The operation an assembler command stands for, if its operand is in range (rule R78). -/
def asmInstr (c : AsmCommand) : Option Instr :=
  if c.wellFormed then
    let n := c.operand.getD 0
    match c.op with
    | .crcLoad => some (.crcLoad (BitVec.ofNat 16 n))
    | .crcByte => some (.crcByte (BitVec.ofNat 8 n))
    | .crcRead => some .crcRead
    | .decFeed => some (.decFeed (BitVec.ofNat 8 n))
    | .decAck => some .decAck
    | .decStatus => some .decStatus
    | .decHdr => some .decHdr
    | .decPay => some (.decPay (BitVec.ofNat 8 n))
    | .decRxcrc => some .decRxcrc
    | .decCalc => some .decCalc
    | .decReset => some .decReset
  else none

/-- The mnemonic of an operation, in upper case (rule R73). -/
def mnemonic : Op → List Char
  | .crcLoad => "CRC.LOAD".toList
  | .crcByte => "CRC.BYTE".toList
  | .crcRead => "CRC.READ".toList
  | .decFeed => "DEC.FEED".toList
  | .decAck => "DEC.ACK".toList
  | .decStatus => "DEC.STATUS".toList
  | .decHdr => "DEC.HDR".toList
  | .decPay => "DEC.PAY".toList
  | .decRxcrc => "DEC.RXCRC".toList
  | .decCalc => "DEC.CALC".toList
  | .decReset => "DEC.RESET".toList

/-- The value of a digit, decimal or hexadecimal in either case. -/
def digitValue (c : Char) : Option Nat :=
  if '0' ≤ c ∧ c ≤ '9' then some (c.toNat - '0'.toNat)
  else if 'a' ≤ c ∧ c ≤ 'f' then some (c.toNat - 'a'.toNat + 10)
  else if 'A' ≤ c ∧ c ≤ 'F' then some (c.toNat - 'A'.toNat + 10)
  else none

/-- Digits to a number in the given base, from the left, with `acc` the value so far. -/
def digitsValue (base : Nat) : Nat → List Char → Option Nat
  | acc, [] => some acc
  | acc, c :: cs =>
    match digitValue c with
    | some d => if d < base then digitsValue base (acc * base + d) cs else none
    | none => none

/-- A decimal number or a `0x`-prefixed hexadecimal number (rule R78), of any size. -/
def numberValue : List Char → Option Nat
  | [] => none
  | '0' :: 'x' :: c :: cs => digitsValue 16 0 (c :: cs)
  | c :: cs => digitsValue 10 0 (c :: cs)

/-- What separates words on a line. -/
def separator (c : Char) : Bool :=
  c == ' ' || c == '\t' || c == ','

/-- The words of a line, up to a comment, which starts with `;` (rule R78); `word` is the word read so far. -/
def lineWords : List Char → List Char → List (List Char)
  | word, [] => if word.isEmpty then [] else [word]
  | word, c :: cs =>
    if c == ';' then (if word.isEmpty then [] else [word])
    else if separator c then (if word.isEmpty then lineWords [] cs else word :: lineWords [] cs)
    else lineWords (word ++ [c]) cs

/-- All the operands of a line as numbers. -/
def operandValues : List (List Char) → Option (List Nat)
  | [] => some []
  | w :: ws =>
    match numberValue w, operandValues ws with
    | some n, some ns => some (n :: ns)
    | _, _ => none

/-- Numbers as bytes, if each is at most 255. -/
def asBytes (ns : List Nat) : Option (List Byte) :=
  if ns.all (· < 256) then some (ns.map (BitVec.ofNat 8 ·)) else none

/-- One of the eleven operations with the operands given (rule R78): at most one operand, in range, and none where the
operation takes none. -/
def assembleOp (o : Op) (ns : List Nat) : Except AsmError AsmItem :=
  match ns, o.form with
  | [], .none => ok o none
  | [n], .imm16 => ok o (some n)
  | [n], .imm8 => ok o (some n)
  | _, _ => .error .operandCount
where
  ok (o : Op) (operand : Option Nat) : Except AsmError AsmItem :=
    match asmInstr ⟨o, operand⟩ with
    | some i => .ok (.instr i)
    | none => .error .operandOutOfRange

/-- One of the pseudo-instructions of rule R79 by its mnemonic, with the operands given. -/
def assemblePseudo (name : List Char) (ns : List Nat) : Except AsmError AsmItem :=
  if name = "CRC.CLEAR".toList then
    if ns.isEmpty then .ok (.pseudo .crcClear) else .error .operandCount
  else if name = "CRC.CALC".toList then
    match ns with
    | [] => .error .operandCount
    | seed :: rest =>
      match asBytes rest with
      | some bytes =>
        if seed < 65536 then .ok (.pseudo (.crcCalc (BitVec.ofNat 16 seed) bytes)) else .error .operandOutOfRange
      | none => .error .operandOutOfRange
  else if name = "DEC.STREAM".toList then
    match asBytes ns with
    | some bytes => .ok (.pseudo (.decStream bytes))
    | none => .error .operandOutOfRange
  else if name = "DEC.READPKT".toList then
    if ns.isEmpty then .ok (.pseudo .decReadpkt) else .error .operandCount
  else .error .unknownMnemonic

/-- One line of assembler text (rules R78, R79): nothing for an empty line or a comment; the mnemonic is
case-insensitive. -/
def assembleLine (line : List Char) : Except AsmError (Option AsmItem) :=
  match lineWords [] line with
  | [] => .ok none
  | name :: operands =>
    match operandValues operands with
    | none => .error .badNumber
    | some ns =>
      let upper := name.map Char.toUpper
      let item := match Op.all.find? fun o => mnemonic o == upper with
        | some o => assembleOp o ns
        | none => assemblePseudo upper ns
      match item with
      | .ok x => .ok (some x)
      | .error e => .error e

/-- The commands a pseudo-instruction expands to, in order (rule R79). `DEC.READPKT` reads as many payload bytes as
`HDR_LEN` says, which the host has from `DEC.HDR`: `hdrLen` is that value (log entry 12). -/
def expandPseudo (hdrLen : Byte) : Pseudo → List Instr
  | .crcClear => [.crcLoad 0x0000#16]
  | .crcCalc seed bytes => .crcLoad seed :: (bytes.map Instr.crcByte ++ [.crcRead])
  | .decStream bytes => bytes.map Instr.decFeed
  | .decReadpkt => .decHdr :: (List.range hdrLen.toNat).map fun i => .decPay (BitVec.ofNat 8 i)

/-- A hexadecimal digit in upper case. -/
def hexDigit (n : Nat) : Char :=
  "0123456789ABCDEF".toList.getD n '0'

/-- The lowest `k` hexadecimal digits of `n`, most significant first. -/
def hexDigits : Nat → Nat → List Char
  | 0, _ => []
  | k + 1, n => hexDigits k (n / 16) ++ [hexDigit (n % 16)]

/-- One operation as a line of assembler text, its operand in hexadecimal as the spec's examples write it (rules R78,
R86). -/
def disassemble (i : Instr) : List Char :=
  mnemonic i.op ++ match i with
    | .crcLoad seed => " 0x".toList ++ hexDigits 4 seed.toNat
    | .crcByte b => " 0x".toList ++ hexDigits 2 b.toNat
    | .decFeed b => " 0x".toList ++ hexDigits 2 b.toNat
    | .decPay k => " 0x".toList ++ hexDigits 2 k.toNat
    | .crcRead | .decAck | .decStatus | .decHdr | .decRxcrc | .decCalc | .decReset => []

end Sys2Proof.Machine
end

