-- ==== Sys2Proof/Machine/Frame.lean ====
section
/-! DEFINITION. The wire frame that the decoder consumes (30_encoding.md section 4): its bytes in the order they are fed
(rules R52, R80) and its CRC (rule R81). The encoder that builds frames is out of scope (rule R4); the layout is not. -/

namespace Sys2Proof.Machine

/-- The two header bytes, dataType then length (rules R7, R80). -/
def headerBytes (dataType : Byte) (payload : List Byte) : List Byte :=
  [dataType, BitVec.ofNat 8 payload.length]

/-- The frame's CRC, over header and payload (rule R81). -/
def frameCrc (seed : Half) (dataType : Byte) (payload : List Byte) : Half :=
  crcCalc (headerBytes dataType payload ++ payload) seed

/-- The bytes of a frame: sync, header, payload, CRC low byte, CRC high byte (rule R80). The length byte says the
payload's length when that is at most `MAX_PAYLOAD`. -/
def frameBytes (seed : Half) (dataType : Byte) (payload : List Byte) : List Byte :=
  [sync1, sync2] ++ headerBytes dataType payload ++ payload ++
    [lowByte (frameCrc seed dataType payload), highByte (frameCrc seed dataType payload)]

end Sys2Proof.Machine
end

