-- ==== Sys2Proof/Safety.lean ====
section
/-! DEFINITION. What counts as a safe run, in the terms the statements use: the invariants the spec states of the
decoder's state (rules R24, R26, R28, R29, R129, R130), the states a run reaches (rules R190, R200, R201), and what two
states have in common when they differ only in payload cells that cannot be read (rules R26, R30). -/

namespace Sys2Proof.Machine

/-- The first `n` cells of the payload buffer were written. -/
def State.written (s : State) (n : Nat) : Prop := ∀ i, i < n → (s.pay.read i).isSome = true

/-- The contents of the first `n` cells, in order; an unwritten cell contributes nothing. -/
def State.payload (s : State) (n : Nat) : List Byte := (List.range n).filterMap fun i => s.pay.read i

/-- The phases in which a frame is being received (`COARSE = Accumulating`, rule R33). -/
def Phase.accumulating : Phase → Bool
  | .readHeader | .readPayload | .verifyCrc => true
  | .waitSync1 | .waitSync2 | .loaded | .failure => false

/-- The invariants of the decoder's position and outcome. -/
structure State.Inv (s : State) : Prop where
  /-- the payload buffer is in canonical form -/
  payWf : s.pay.wf = true
  /-- `REASON ≠ NONE` exactly when `PHASE = FAILURE` (rule R24) -/
  reasonFailure : s.reason ≠ .none ↔ s.phase = .failure
  /-- `INDEX = 0` outside the sections of a frame (rule R29) -/
  indexOutside : s.phase.accumulating = false → s.index = 0#8
  /-- `INDEX ∈ {0, 1}` in READ_HEADER and VERIFY_CRC (rule R29) -/
  indexTwo : s.phase = .readHeader ∨ s.phase = .verifyCrc → s.index.toNat ≤ 1
  /-- `INDEX < HDR_LEN` in READ_PAYLOAD (rules R29, R129) -/
  indexPayload : s.phase = .readPayload → s.index.toNat < s.hdrLen.toNat
  /-- the payload bytes received so far are in the buffer (rules R26, R127) -/
  writtenSoFar : s.phase = .readPayload → s.written s.index.toNat
  /-- a complete payload is in the buffer (rule R26) -/
  writtenAll : s.phase = .verifyCrc ∨ s.payloadComplete = true → s.written s.hdrLen.toNat
  /-- a frame past its header has a recognised type, unless it failed for its type (rule R125) -/
  typeKnown : s.phase = .readPayload ∨ s.phase = .verifyCrc ∨ s.payloadComplete = true →
    (typeSize s.cfg s.hdrType).isSome = true
  /-- a frame that failed for its type has an unrecognised one (rules R125, R170) -/
  typeUnknown : s.reason = .unknownType → typeSize s.cfg s.hdrType = none
  /-- in LOADED the trailer equals the computed CRC (rules R128, R154) -/
  crcEqual : s.phase = .loaded → s.rxcrc = s.calcReg
  /-- in FAILURE with reason CHECKSUM it differs (rules R128, R154) -/
  crcDiffers : s.reason = .checksum → s.rxcrc ≠ s.calcReg

/-- The header and payload bytes consumed since the sync, where the state still holds all of them: in the three
accumulating phases and while held (rules R28, R130). -/
def State.consumed (s : State) : List Byte :=
  match s.phase with
  | .waitSync1 | .waitSync2 => []
  | .readHeader => if s.index = 0#8 then [] else [s.hdrType]
  | .readPayload => [s.hdrType, s.hdrLen] ++ s.payload s.index.toNat
  | .verifyCrc | .loaded => [s.hdrType, s.hdrLen] ++ s.payload s.hdrLen.toNat
  | .failure =>
    match s.reason with
    | .checksum => [s.hdrType, s.hdrLen] ++ s.payload s.hdrLen.toNat
    | .unknownType | .none => [s.hdrType, s.hdrLen]

/-- `CALC = calc(bytes consumed since the sync, FRAME_SEED)` from the sync on, as long as the frame is in the state
(rules R28, R130). -/
def State.CrcInv (s : State) : Prop :=
  s.phase.accumulating = true ∨ s.held = true → s.calcReg = crcCalc s.consumed s.cfg.frameSeed

/-- The states of a run: it starts after a hardware reset of a block with some configuration, the host may send any
inputs at any time, and the block takes steps (rules R190, R200, R201). -/
inductive Reachable : State → Prop where
  | reset (cfg : Config) : Reachable (State.resetWith cfg)
  | send (s : State) (more : List HostInput) : Reachable s → Reachable (s.setInputs (s.inputs ++ more))
  | step (s t : State) : Reachable s → step s = .next t → Reachable t

/-- How many cells, from cell 0 on, hold payload bytes of the frame that is being received or held; `DEC.PAY` can come
to read no other cell of this frame (rules R26, R153). -/
def State.liveCells (s : State) : Nat :=
  match s.phase with
  | .waitSync1 | .waitSync2 | .readHeader => 0
  | .readPayload => s.index.toNat
  | .verifyCrc | .loaded => s.hdrLen.toNat
  | .failure => if s.reason = .checksum then s.hdrLen.toNat else 0

/-- Two states that differ at most in payload cells left over from earlier frames (rules R26, R30). -/
def SameButStale (s t : State) : Prop :=
  s.setPay t.pay = t ∧ ∀ i, i < s.liveCells → s.pay.read i = t.pay.read i

/-- The decoder's registers and buffer, everything of rules R23 to R29. -/
structure Decoder where
  phase : Phase
  reason : Reason
  index : Byte
  hdrType : Byte
  hdrLen : Byte
  pay : Memory
  rxcrc : Half
  calcReg : Half
  deriving DecidableEq, Repr

/-- The decoder part of a state. -/
def State.decoder (s : State) : Decoder where
  phase := s.phase
  reason := s.reason
  index := s.index
  hdrType := s.hdrType
  hdrLen := s.hdrLen
  pay := s.pay
  rxcrc := s.rxcrc
  calcReg := s.calcReg

end Sys2Proof.Machine
end

