-- ==== Sys2Proof/Certificates/Slice0/Obligations.lean ====
section
/-! DEFINITION. The statements for the provers. Each docstring says which rule of spec/ the statement formalises; a
response word is written out as `{RC[3:0], 0x000, DATA[15:0]}` (rule R75). -/

open Sys2Proof Sys2Proof.Machine

/-! ## Encoding -/

/-- The words of rule R86's table decode to the operations that stand beside them, and its three illegal words are
rejected. -/
def Obligations.ExampleWordsDecode : Prop :=
  decode 0x01001234#32 = .ok (.crcLoad 0x1234#16) ∧
  decode 0x02000041#32 = .ok (.crcByte 0x41#8) ∧
  decode 0x03000000#32 = .ok .crcRead ∧
  decode 0x1000000A#32 = .ok (.decFeed 0x0A#8) ∧
  decode 0x11000000#32 = .ok .decAck ∧
  decode 0x14000003#32 = .ok (.decPay 3#8) ∧
  decode 0x17000000#32 = .ok .decReset ∧
  decode 0x02000141#32 = .error .immHighNonzero ∧
  decode 0x10010000#32 = .error .rsvNonzero ∧
  decode 0x00000000#32 = .error .reservedOpc

/-- Every operation, with every operand, is what the decoder reads from its word (rules R71 to R74): no bit of an
operand is lost. -/
def Obligations.DecodeOfEncodeIsIdentity : Prop :=
  ∀ i : Instr, decode (encode i) = .ok i

/-- A word that decodes to an operation is that operation's one word (rules R71 to R74, R85): no two words mean the
same. -/
def Obligations.EachOperationHasOneWord : Prop :=
  ∀ (w : Word) (i : Instr), decode w = .ok i → encode i = w

/-- At most one row of the opcode map matches any word (rule R74). -/
def Obligations.AtMostOneRowMatches : Prop :=
  ∀ (w : Word) (r q : OpcodeRow), r ∈ opcodeTable → q ∈ opcodeTable →
    r.accepts w = true → q.accepts w = true → r = q

/-- Rule R84: exactly the words with a reserved `OPC`, with `RSV ≠ 0`, or with a set bit in the part of `IMM` that the
operation does not use encode no operation; the block answers such a word with `ILLEGAL` and `DATA = 0x0000` in every
state (held ones too, rule R175) and changes nothing else. -/
def Obligations.IllegalWordsRespondIllegal : Prop :=
  ∀ w : Word,
    let opc := w.extractLsb' 24 8
    let rsv := w.extractLsb' 16 8
    let imm := w.extractLsb' 0 16
    let malformed :=
      opc ∉ [0x01#8, 0x02#8, 0x03#8, 0x10#8, 0x11#8, 0x12#8, 0x13#8, 0x14#8, 0x15#8, 0x16#8, 0x17#8] ∨
      rsv ≠ 0#8 ∨
      (opc ∈ [0x02#8, 0x10#8, 0x14#8] ∧ imm.extractLsb' 8 8 ≠ 0#8) ∨
      (opc ∈ [0x03#8, 0x11#8, 0x12#8, 0x13#8, 0x15#8, 0x16#8, 0x17#8] ∧ imm ≠ 0#16)
    (malformed ↔ ∃ e, decode w = .error e) ∧
    ∀ s : State, malformed → runCommand w s = .next { s with responses := 0x30000000#32 :: s.responses }

/-- The operand ranges of rule R78: an assembler command is accepted exactly when its operand is in range, and then the
operation and the operand's value are the ones written. -/
def Obligations.AssemblerChecksOperandRange : Prop :=
  (∀ c : AsmCommand, (asmInstr c).isSome = c.wellFormed) ∧
  (∀ (c : AsmCommand) (i : Instr), asmInstr c = some i →
    i.op = c.op ∧ ∀ n, c.operand = some n → i.imm.toNat = n) ∧
  (∀ n, asmInstr ⟨.crcLoad, some n⟩ = none ↔ 65535 < n) ∧
  (∀ n, asmInstr ⟨.crcByte, some n⟩ = none ↔ 255 < n) ∧
  (∀ n, asmInstr ⟨.decFeed, some n⟩ = none ↔ 255 < n) ∧
  (∀ n, asmInstr ⟨.decPay, some n⟩ = none ↔ 255 < n)

/-- Assembling an operation's text gives the operation back, in upper and in lower case (rule R78; the layout of the
text, one space and hexadecimal digits, is the model's choice, log entry 11). -/
def Obligations.AssembleOfDisassembleIsIdentity : Prop :=
  ∀ i : Instr,
    assembleLine (disassemble i) = .ok (some (.instr i)) ∧
    assembleLine ((disassemble i).map Char.toLower) = .ok (some (.instr i))

/-! ## Steps, inputs and reset -/

/-- A step takes the oldest waiting input, and where that is a word of an operation, it is that operation's `exec` on the
state without the word; where it is any other word, it is the `ILLEGAL` response (rules R10, R59, R84; the list of waiting
inputs is the model's form of the command port, log entry 4). -/
def Obligations.StepRunsDecodedCommand : Prop :=
  ∀ (s : State) (w : Word) (rest : List HostInput), s.inputs = .command w :: rest →
    (∀ i, decode w = .ok i → step s = exec i { s with inputs := rest }) ∧
    (∀ e, decode w = .error e →
      step s = .next { s with inputs := rest, responses := 0x30000000#32 :: s.responses })

/-- A step takes exactly the oldest waiting input, whatever it is, and with none waiting it changes nothing (rules R10 and
R70: one command a step; the list, the step without an input, and that a hardware reset leaves the later inputs waiting
are the model's choices, log entries 4, 5 and 7). -/
def Obligations.EachStepTakesOneInput : Prop :=
  ∀ s t : State, step s = .next t → t.inputs = s.inputs.tail ∧ (s.inputs = [] → t = s)

/-- Rules R190 and R176: a hardware reset, with or without a command word in the same step, gives every state element its
reset value and no response; the command is not performed. The configuration stays. -/
def Obligations.HardwareResetWins : Prop :=
  ∀ (s : State) (rest : List HostInput) (w : Word),
    s.inputs = .reset :: rest ∨ s.inputs = .resetAndCommand w :: rest →
    ∃ t, step s = .next t ∧
      t.acc = 0x0000#16 ∧ t.phase = .waitSync1 ∧ t.reason = .none ∧ t.index = 0#8 ∧ t.hdrType = 0x00#8 ∧
      t.hdrLen = 0x00#8 ∧ (∀ a, t.pay.read a = none) ∧ t.rxcrc = 0x0000#16 ∧ t.calcReg = s.cfg.frameSeed ∧
      t.status = 0x0000#16 ∧ t.cfg = s.cfg ∧ t.responses = s.responses

/-- Rule R34, both columns, and rule R156: what a hardware reset leaves (for every configuration) and what `DEC.RESET`
(word `0x17000000`) leaves, with its `OK` response and `STATUS = 0x0000`; `DEC.RESET` leaves `ACC` and `PAY`. -/
def Obligations.ResetColumns : Prop :=
  (∀ cfg : Config,
    let r := State.resetWith cfg
    r.cfg = cfg ∧ r.acc = 0x0000#16 ∧ r.phase = .waitSync1 ∧ r.reason = .none ∧ r.index = 0#8 ∧
    r.hdrType = 0x00#8 ∧ r.hdrLen = 0x00#8 ∧ (∀ a, r.pay.read a = none) ∧ r.rxcrc = 0x0000#16 ∧
    r.calcReg = cfg.frameSeed ∧ r.status = 0x0000#16) ∧
  decode 0x17000000#32 = .ok .decReset ∧
  ∀ s : State, exec .decReset s = .next {
    s with phase := .waitSync1, reason := .none, index := 0#8, hdrType := 0x00#8, hdrLen := 0x00#8, rxcrc := 0x0000#16,
           calcReg := s.cfg.frameSeed, responses := 0x00000000#32 :: s.responses }

/-- Operations take effect one at a time, in the order the host issues them, and each sees the effects of the earlier
ones (rule R59): the steps that run a queue of command words end in the state that the operations lead to. -/
def Obligations.QueuedCommandsRunInOrder : Prop :=
  ∀ (is : List Instr) (s t : State) (rest : List HostInput),
    s.inputs = is.map (fun i => HostInput.command (encode i)) ++ rest →
    execAll is { s with inputs := rest } = .next t →
    Host.Core.run core is.length s = .next t

/-- A step that runs a command word gives one response word (rules R70, R75), with a code of rule R76; each error code
has the cause rule R174 gives it, and then nothing else changes; the six operations that rule R174 names always respond
`OK`. -/
def Obligations.ResponsesAndErrorCodes : Prop :=
  ∀ (s t : State) (w : Word) (rest : List HostInput),
    s.inputs = .command w :: rest → step s = .next t →
    ∃ (rc : BitVec 4) (data : Half),
      t.responses = (rc ++ 0x000#12 ++ data) :: s.responses ∧
      rc.toNat ≤ 3 ∧
      (rc ≠ 0x0#4 → t = { s with inputs := rest, responses := t.responses }) ∧
      (rc = 0x1#4 ↔ s.held = true ∧ ∃ b, decode w = .ok (.decFeed b)) ∧
      (rc = 0x2#4 ↔
        (s.held = false ∧ (decode w = .ok .decAck ∨ decode w = .ok .decHdr)) ∨
        (s.payloadComplete = false ∧ decode w = .ok .decRxcrc) ∨
        (∃ k, decode w = .ok (.decPay k) ∧ (s.payloadComplete = false ∨ s.hdrLen.toNat ≤ k.toNat))) ∧
      (rc = 0x1#4 ∨ rc = 0x2#4 → data = s.status) ∧
      (rc = 0x3#4 ↔ ∃ e, decode w = .error e) ∧
      (rc = 0x3#4 → data = 0x0000#16) ∧
      (∀ i, decode w = .ok i → i.op ∈ [Op.crcLoad, .crcByte, .crcRead, .decStatus, .decCalc, .decReset] → rc = 0x0#4)

/-- The parameters are fixed for the block's lifetime: no step changes them (rule R32; that they ride in the state is the
model's choice, log entry 1). -/
def Obligations.ConfigNeverChanges : Prop :=
  ∀ s t : State, step s = .next t → t.cfg = s.cfg

/-! ## CRC arithmetic and the CRC unit -/

/-- `crc_step` as the pseudocode of rule R100 writes it, and what it computes: it divides by the generator
`x^16 + x^12 + x^5 + 1`, most significant bit first, without reflection. Read as polynomials over GF(2) (bit `i` is the
coefficient of `x^i`), `acc * x^8 + b * x^16` and the result differ by a multiple of the generator; the result has degree
below 16, so it is the remainder. Rule R100 names the generator but does not state this clause: it is inferred from the
pseudocode. The rule's worked example is the last clause. -/
def Obligations.CrcStepIsPolynomialRemainder : Prop :=
  (∀ (acc : Half) (b : Byte),
    crcStep acc b =
      (fun x : Half => if x.getLsbD 15 then (x <<< 1) ^^^ 0x1021#16 else x <<< 1)^[8]
        (acc ^^^ (b.setWidth 16 <<< 8))) ∧
  (∀ (acc : Half) (b : Byte), ∃ q : Polynomial (ZMod 2),
    (∑ i ∈ Finset.range 16, if acc.getLsbD i then (Polynomial.X : Polynomial (ZMod 2)) ^ i else 0) * Polynomial.X ^ 8 +
        (∑ i ∈ Finset.range 8, if b.getLsbD i then (Polynomial.X : Polynomial (ZMod 2)) ^ i else 0) * Polynomial.X ^ 16 =
      (∑ i ∈ Finset.range 16, if (crcStep acc b).getLsbD i then (Polynomial.X : Polynomial (ZMod 2)) ^ i else 0) +
        q * (Polynomial.X ^ 16 + Polynomial.X ^ 12 + Polynomial.X ^ 5 + 1)) ∧
  crcStep 0x0000#16 0x01#8 = 0x1021#16

/-- The table form of rule R101: `crc_step` is the byte-table form over the table `T` as the spec prints it, and `T[i]`
is `crc_step(0x0000, i)`. -/
def Obligations.CrcStepEqualsTableForm : Prop :=
  (∀ (acc : Half) (b : Byte), crcStep acc b = (acc <<< 8) ^^^ crcTableAt (acc.extractLsb' 8 8 ^^^ b)) ∧
  (∀ i : Byte, crcTableAt i = crcStep 0x0000#16 i)

/-- Rule R102: `calc` is the left fold of `crc_step` from the seed, with nothing done to the result; its worked example,
the bytes of "123456789", is the last clause. -/
def Obligations.CalcIsLeftFold : Prop :=
  (∀ seed : Half, crcCalc [] seed = seed) ∧
  (∀ (b : Byte) (rest : List Byte) (seed : Half), crcCalc (b :: rest) seed = crcCalc rest (crcStep seed b)) ∧
  (∀ (bytes : List Byte) (seed : Half), crcCalc bytes seed = bytes.foldl crcStep seed) ∧
  crcCalc [0x31#8, 0x32#8, 0x33#8, 0x34#8, 0x35#8, 0x36#8, 0x37#8, 0x38#8, 0x39#8] 0x0000#16 = 0x31C3#16

/-- The chaining law of rule R103: one pass over two parts is the second part's `calc` from the first part's. -/
def Obligations.CalcChains : Prop :=
  ∀ (a b : List Byte) (seed : Half), crcCalc (a ++ b) seed = crcCalc b (crcCalc a seed)

/-- The linearity laws of rule R107 over GF(2). -/
def Obligations.CrcIsLinear : Prop :=
  (∀ (a a' : Half) (b b' : Byte), crcStep (a ^^^ a') (b ^^^ b') = crcStep a b ^^^ crcStep a' b') ∧
  (∀ (bytes : List Byte) (seed seed' : Half),
    crcCalc bytes (seed ^^^ seed') =
      crcCalc bytes seed ^^^ crcCalc (List.replicate bytes.length 0x00#8) seed')

/-- Rule R110: changing one byte always changes the checksum. -/
def Obligations.OneByteChangeChangesCalc : Prop :=
  ∀ (before after : List Byte) (b b' : Byte) (seed : Half), b ≠ b' →
    crcCalc (before ++ b :: after) seed ≠ crcCalc (before ++ b' :: after) seed

/-- Rules R104, R105 and R106, each with its encoding, its effect on `ACC` and its `OK` response carrying `ACC`; nothing
else changes, and a `CRC.BYTE` word with `IMM[15:8] ≠ 0` is illegal. -/
def Obligations.CrcUnitOperations : Prop :=
  (∀ (s : State) (seed : Half),
    decode (0x01#8 ++ 0x00#8 ++ seed) = .ok (.crcLoad seed) ∧
    exec (.crcLoad seed) s =
      .next { s with acc := seed, responses := (0x0#4 ++ 0x000#12 ++ seed) :: s.responses }) ∧
  (∀ (s : State) (b : Byte),
    decode (0x02#8 ++ 0x00#8 ++ 0x00#8 ++ b) = .ok (.crcByte b) ∧
    exec (.crcByte b) s =
      .next { s with acc := crcStep s.acc b,
                     responses := (0x0#4 ++ 0x000#12 ++ crcStep s.acc b) :: s.responses }) ∧
  (∀ (s : State) (hi b : Byte), hi ≠ 0x00#8 →
    runCommand (0x02#8 ++ 0x00#8 ++ hi ++ b) s = .next { s with responses := 0x30000000#32 :: s.responses }) ∧
  (∀ s : State,
    decode 0x03000000#32 = .ok .crcRead ∧
    exec .crcRead s = .next { s with responses := (0x0#4 ++ 0x000#12 ++ s.acc) :: s.responses })

/-- `CRC.LOAD seed`, one `CRC.BYTE` a byte and `CRC.READ` compute `calc(bytes, seed)` (rules R70, R79), and `CRC.BYTE`s
alone continue from the accumulator as it stands (rule R198); the decoder is untouched. -/
def Obligations.CrcUnitComputesCalc : Prop :=
  (∀ (s : State) (seed : Half) (bytes : List Byte) (n : Byte),
    ∃ t, execAll (expandPseudo n (.crcCalc seed bytes)) s = .next t ∧
      t.acc = crcCalc bytes seed ∧
      t.responses.head? = some (0x0#4 ++ 0x000#12 ++ crcCalc bytes seed) ∧
      t.responses.length = s.responses.length + bytes.length + 2 ∧
      t.decoder = s.decoder ∧ t.cfg = s.cfg ∧ t.inputs = s.inputs) ∧
  (∀ (s : State) (bytes : List Byte),
    ∃ t, execAll (bytes.map Instr.crcByte) s = .next t ∧
      t.acc = crcCalc bytes s.acc ∧ t.decoder = s.decoder)

/-- The expansions of rule R79. -/
def Obligations.PseudoInstructionsExpand : Prop :=
  (∀ n, expandPseudo n .crcClear = [.crcLoad 0x0000#16]) ∧
  (∀ n seed bytes, expandPseudo n (.crcCalc seed bytes) =
    [.crcLoad seed] ++ bytes.map Instr.crcByte ++ [.crcRead]) ∧
  (∀ n bytes, expandPseudo n (.decStream bytes) = bytes.map Instr.decFeed) ∧
  (∀ n : Byte, (expandPseudo n .decReadpkt).length = n.toNat + 1 ∧
    (expandPseudo n .decReadpkt)[0]? = some .decHdr ∧
    ∀ i, i < n.toNat → (expandPseudo n .decReadpkt)[i + 1]? = some (.decPay (BitVec.ofNat 8 i)))

/-! ## DEC.FEED -/

/-- Rules R121, R122 and R123: the two sync arms. In WAIT_SYNC1 only `0x0A` leads on; in WAIT_SYNC2 `0x55` enters the
header with `CALC = FRAME_SEED`, `0x0A` stays, anything else goes back. The response is `OK` with the new `STATUS`, and
nothing else changes. -/
def Obligations.FeedInSyncPhases : Prop :=
  (∀ (s : State) (b : Byte), s.phase = .waitSync1 →
    let u := { s with phase := if b = 0x0A#8 then Phase.waitSync2 else Phase.waitSync1 }
    exec (.decFeed b) s = .next { u with responses := (0x0#4 ++ 0x000#12 ++ u.status) :: s.responses }) ∧
  (∀ (s : State) (b : Byte), s.phase = .waitSync2 →
    let u :=
      if b = 0x55#8 then { s with phase := Phase.readHeader, index := 0#8, calcReg := s.cfg.frameSeed }
      else if b = 0x0A#8 then { s with phase := Phase.waitSync2 }
      else { s with phase := Phase.waitSync1 }
    exec (.decFeed b) s = .next { u with responses := (0x0#4 ++ 0x000#12 ++ u.status) :: s.responses })

/-- Rules R124 and R125: the two header arms. The second one fails an unrecognised dataType before it looks at the
length (rule R175), and sends a zero length straight to the CRC bytes. -/
def Obligations.FeedInReadHeader : Prop :=
  (∀ (s : State) (b : Byte), s.phase = .readHeader → s.index = 0#8 →
    let u := { s with hdrType := b, calcReg := crcStep s.calcReg b, index := 1#8 }
    exec (.decFeed b) s = .next { u with responses := (0x0#4 ++ 0x000#12 ++ u.status) :: s.responses }) ∧
  (∀ (s : State) (b : Byte), s.phase = .readHeader → s.index ≠ 0#8 →
    let v := { s with hdrLen := b, calcReg := crcStep s.calcReg b, index := 0#8 }
    let u :=
      if typeSize s.cfg s.hdrType = none then { v with phase := Phase.failure, reason := Reason.unknownType }
      else if b = 0#8 then { v with phase := Phase.verifyCrc }
      else { v with phase := Phase.readPayload }
    exec (.decFeed b) s = .next { u with responses := (0x0#4 ++ 0x000#12 ++ u.status) :: s.responses })

/-- Rule R127: the payload arm. The byte goes to cell `INDEX` and every other cell reads as before; `CALC` takes the byte
in; the last byte leads to VERIFY_CRC with `INDEX = 0`, any other raises `INDEX` by one; nothing else changes. (Cell 255
does not exist, rule R26: for `INDEX = 255` see StopsOnMissingCells.) -/
def Obligations.FeedInReadPayload : Prop :=
  ∀ (s : State) (b : Byte), s.phase = .readPayload → s.index.toNat < 255 →
    ∃ t, exec (.decFeed b) s = .next t ∧
      t.pay.read s.index.toNat = some b ∧
      (∀ a, a ≠ s.index.toNat → t.pay.read a = s.pay.read a) ∧
      (let u :=
        if s.index.toNat + 1 = s.hdrLen.toNat
        then { s with calcReg := crcStep s.calcReg b, phase := Phase.verifyCrc, index := 0#8 }
        else { s with calcReg := crcStep s.calcReg b, index := s.index + 1#8 }
       t = { u with pay := t.pay, responses := (0x0#4 ++ 0x000#12 ++ u.status) :: s.responses })

/-- Rule R128: the CRC arm. The first byte is the low byte of `RXCRC`; the second is its high byte and decides between
LOADED and FAILURE with reason CHECKSUM. -/
def Obligations.FeedInVerifyCrc : Prop :=
  (∀ (s : State) (b : Byte), s.phase = .verifyCrc → s.index = 0#8 →
    let u := { s with rxcrc := s.rxcrc.extractLsb' 8 8 ++ b, index := 1#8 }
    exec (.decFeed b) s = .next { u with responses := (0x0#4 ++ 0x000#12 ++ u.status) :: s.responses }) ∧
  (∀ (s : State) (b : Byte), s.phase = .verifyCrc → s.index ≠ 0#8 →
    let received : Half := b ++ s.rxcrc.extractLsb' 0 8
    let v := { s with rxcrc := received, index := 0#8 }
    let u :=
      if received = s.calcReg then { v with phase := Phase.loaded }
      else { v with phase := Phase.failure, reason := Reason.checksum }
    exec (.decFeed b) s = .next { u with responses := (0x0#4 ++ 0x000#12 ++ u.status) :: s.responses })

/-- Rule R131: a held decoder answers `DEC.FEED` with `BUSY` and the current `STATUS`, and nothing changes. -/
def Obligations.FeedWhileHeldIsBusy : Prop :=
  ∀ (s : State) (b : Byte), s.phase = .loaded ∨ s.phase = .failure →
    exec (.decFeed b) s = .next { s with responses := (0x1#4 ++ 0x000#12 ++ s.status) :: s.responses }

/-- Rule R126: the payload has exactly `HDR_LEN` bytes. Fewer leave the decoder in READ_PAYLOAD, `HDR_LEN` of them fill
the buffer and lead to VERIFY_CRC; a zero length with a recognised type goes there at once; and of the type table only
which codes are recognised matters, not their declared sizes. -/
def Obligations.PayloadCountIsLengthField : Prop :=
  (∀ (s : State) (bytes : List Byte), s.phase = .readPayload → s.index = 0#8 → bytes.length ≤ s.hdrLen.toNat →
    bytes ≠ [] →
    ∃ t, feedAll bytes s = .next t ∧ t.hdrLen = s.hdrLen ∧ t.payload bytes.length = bytes ∧
      (bytes.length < s.hdrLen.toNat → t.phase = .readPayload ∧ t.index.toNat = bytes.length) ∧
      (bytes.length = s.hdrLen.toNat → t.phase = .verifyCrc ∧ t.index = 0#8)) ∧
  (∀ s : State, s.phase = .readHeader → s.index ≠ 0#8 → (typeSize s.cfg s.hdrType).isSome = true →
    ∃ t, exec (.decFeed 0x00#8) s = .next t ∧ t.phase = .verifyCrc) ∧
  (∀ (s : State) (cfg : Config) (b : Byte),
    cfg.frameSeed = s.cfg.frameSeed →
    (∀ code, (typeSize cfg code).isSome = (typeSize s.cfg code).isSome) →
    exec (.decFeed b) { s with cfg := cfg } = andThen (exec (.decFeed b) s) fun t => { t with cfg := cfg })

/-- Transparency (rules R82, R132): inside a frame no byte, sync values included, takes the decoder back to a sync phase
or to the start of a header; `CALC` goes on from its value. -/
def Obligations.NoRestartInsideFrame : Prop :=
  ∀ (s t : State) (b : Byte), s.phase.accumulating = true → exec (.decFeed b) s = .next t →
    t.phase ≠ .waitSync1 ∧ t.phase ≠ .waitSync2 ∧
    (t.phase = .readHeader → s.phase = .readHeader ∧ s.index = 0#8 ∧ t.index = 1#8) ∧
    t.calcReg = if s.phase = .verifyCrc then s.calcReg else crcStep s.calcReg b

/-! ## Outcomes, acknowledge and read-outs -/

/-- Rule R33: the fields of `STATUS`, with the codes of rules R23 and R24. -/
def Obligations.StatusFields : Prop :=
  ∀ s : State,
    s.status.extractLsb' 0 3 = (match s.phase with
      | .waitSync1 => 0#3 | .waitSync2 => 1#3 | .readHeader => 2#3 | .readPayload => 3#3 | .verifyCrc => 4#3
      | .loaded => 5#3 | .failure => 6#3) ∧
    s.status.extractLsb' 3 1 = 0#1 ∧
    s.status.extractLsb' 4 2 = (match s.phase with
      | .waitSync1 | .waitSync2 => 0#2
      | .readHeader | .readPayload | .verifyCrc => 1#2
      | .loaded => 2#2
      | .failure => 3#2) ∧
    s.status.extractLsb' 6 2 = (match s.reason with
      | .none => 0#2 | .unknownType => 1#2 | .checksum => 2#2) ∧
    s.status.extractLsb' 8 8 = s.index

/-- The values of `STATUS` that occur (the list at the end of rule R33), in every state that meets the invariant. -/
def Obligations.StatusValuesThatOccur : Prop :=
  ∀ s : State, s.Inv →
    (s.phase = .waitSync1 ∧ s.status = 0x0000#16) ∨
    (s.phase = .waitSync2 ∧ s.status = 0x0001#16) ∨
    (s.phase = .readHeader ∧ (s.status = 0x0012#16 ∨ s.status = 0x0112#16)) ∨
    (s.phase = .readPayload ∧ ∃ k : Byte, k.toNat < s.hdrLen.toNat ∧ s.status = k ++ 0x13#8) ∨
    (s.phase = .verifyCrc ∧ (s.status = 0x0014#16 ∨ s.status = 0x0114#16)) ∨
    (s.phase = .loaded ∧ s.status = 0x0025#16) ∨
    (s.phase = .failure ∧ (s.status = 0x0076#16 ∨ s.status = 0x00B6#16))

/-- Rules R170, R171 and R177: an outcome is entered only by the `DEC.FEED` whose byte completes or fails the frame. It
is LOADED when the trailer equals `CALC`, FAILURE with CHECKSUM when it differs, FAILURE with UNKNOWN_TYPE at header
byte 1 when the type is not recognised; `INDEX` is 0, and the response of that same `DEC.FEED` is `OK` with the new
`STATUS`. -/
def Obligations.OutcomeEntry : Prop :=
  ∀ s t : State, s.Inv → step s = .next t → s.held = false → t.held = true →
    (∃ w rest b, s.inputs = .command w :: rest ∧ decode w = .ok (.decFeed b) ∧
      ((s.phase = .verifyCrc ∧ s.index = 1#8 ∧ t.rxcrc = b ++ s.rxcrc.extractLsb' 0 8 ∧ t.calcReg = s.calcReg ∧
          t.hdrType = s.hdrType ∧ t.hdrLen = s.hdrLen ∧ t.pay = s.pay ∧
          (t.phase = .loaded ∧ t.reason = .none ∧ t.rxcrc = t.calcReg ∨
            t.phase = .failure ∧ t.reason = .checksum ∧ t.rxcrc ≠ t.calcReg)) ∨
        (s.phase = .readHeader ∧ s.index = 1#8 ∧ t.phase = .failure ∧ t.reason = .unknownType ∧
          t.hdrType = s.hdrType ∧ t.hdrLen = b ∧ t.calcReg = crcStep s.calcReg b ∧
          typeSize t.cfg t.hdrType = none))) ∧
    t.index = 0#8 ∧
    t.responses = (0x0#4 ++ 0x000#12 ++ t.status) :: s.responses

/-- Rule R31: held means LOADED or FAILURE, and only `DEC.ACK`, `DEC.RESET` or a hardware reset releases the decoder;
after any other step, a `DEC.FEED` among them, it is held as it was, with the same outcome and frame (rules R60, R179,
R201). -/
def Obligations.OnlyAckOrResetReleases : Prop :=
  (∀ s : State, s.held = true ↔ s.phase = .loaded ∨ s.phase = .failure) ∧
  (∀ s t : State, s.held = true → step s = .next t →
    (t.held = true ∧ t.decoder = s.decoder) ∨
    (t.held = false ∧ ∃ rest, s.inputs = .command 0x11000000#32 :: rest ∨ s.inputs = .command 0x17000000#32 :: rest ∨
      s.inputs = .reset :: rest ∨ ∃ w, s.inputs = .resetAndCommand w :: rest))

/-- Rule R150: `DEC.ACK` (word `0x11000000`) releases a held decoder to WAIT_SYNC1, REASON NONE, INDEX 0 and responds
`OK` with `STATUS = 0x0000`; when nothing is held it responds `INVALID` with `STATUS`, so a second one does; it changes
nothing else. -/
def Obligations.AcknowledgeReleases : Prop :=
  decode 0x11000000#32 = .ok .decAck ∧
  (∀ s : State, s.phase = .loaded ∨ s.phase = .failure →
    exec .decAck s = .next { s with phase := .waitSync1, reason := .none, index := 0#8,
                                    responses := 0x00000000#32 :: s.responses }) ∧
  (∀ s : State, s.phase ≠ .loaded → s.phase ≠ .failure →
    exec .decAck s = .next { s with responses := (0x2#4 ++ 0x000#12 ++ s.status) :: s.responses })

/-- Rules R151, R152, R154 and R155: the read-outs without an operand, each with its word; none changes the state.
`DEC.HDR` is valid while held, `DEC.RXCRC` when the trailer is complete, the other two always. -/
def Obligations.ReadoutsWithoutOperand : Prop :=
  decode 0x12000000#32 = .ok .decStatus ∧ decode 0x13000000#32 = .ok .decHdr ∧
  decode 0x15000000#32 = .ok .decRxcrc ∧ decode 0x16000000#32 = .ok .decCalc ∧
  ∀ s : State,
    exec .decStatus s = .next { s with responses := (0x0#4 ++ 0x000#12 ++ s.status) :: s.responses } ∧
    exec .decCalc s = .next { s with responses := (0x0#4 ++ 0x000#12 ++ s.calcReg) :: s.responses } ∧
    exec .decHdr s = .next { s with
      responses := (if s.phase = .loaded ∨ s.phase = .failure then 0x0#4 ++ 0x000#12 ++ (s.hdrLen ++ s.hdrType : Half)
        else 0x2#4 ++ 0x000#12 ++ s.status) :: s.responses } ∧
    exec .decRxcrc s = .next { s with
      responses := (if s.phase = .loaded ∨ (s.phase = .failure ∧ s.reason = .checksum) then 0x0#4 ++ 0x000#12 ++ s.rxcrc
        else 0x2#4 ++ 0x000#12 ++ s.status) :: s.responses }

/-- Rule R153: `DEC.PAY i` responds with the zero-extended byte of cell `i` when the payload is complete and
`i < HDR_LEN`, and `INVALID` with `STATUS` otherwise; it changes nothing. (The cell is a written one in every state that
meets the invariant; for one that was never written see StopsOnMissingCells.) -/
def Obligations.PayloadReadout : Prop :=
  (∀ i : Byte, decode (0x14#8 ++ 0x00#8 ++ 0x00#8 ++ i) = .ok (.decPay i)) ∧
  (∀ (s : State) (i b : Byte), s.phase = .loaded ∨ (s.phase = .failure ∧ s.reason = .checksum) →
    i.toNat < s.hdrLen.toNat → s.pay.read i.toNat = some b →
    exec (.decPay i) s = .next { s with responses := (0x0#4 ++ 0x000#12 ++ b.setWidth 16) :: s.responses }) ∧
  (∀ (s : State) (i : Byte),
    ¬ ((s.phase = .loaded ∨ (s.phase = .failure ∧ s.reason = .checksum)) ∧ i.toNat < s.hdrLen.toNat) →
    exec (.decPay i) s = .next { s with responses := (0x2#4 ++ 0x000#12 ++ s.status) :: s.responses }) ∧
  (∀ (s : State) (i : Byte), s.Inv → ∃ t, exec (.decPay i) s = .next t)

/-- The two stops of the model, which the spec has no behaviour for because they cannot arise (rules R26, R129; log
entries 8 and 9): a payload byte for cell 255, and a read of a cell that was never written. -/
def Obligations.StopsOnMissingCells : Prop :=
  (∀ (s : State) (b : Byte), s.phase = .readPayload → s.index = 255#8 →
    exec (.decFeed b) s = .fault .payNoCell) ∧
  (∀ (s : State) (i : Byte), s.phase = .loaded ∨ (s.phase = .failure ∧ s.reason = .checksum) →
    i.toNat < s.hdrLen.toNat → s.pay.read i.toNat = none →
    exec (.decPay i) s = .fault .payUnwritten)

/-- After `DEC.ACK` the header, payload and trailer read-outs respond `INVALID` (rule R195), and `DEC.CALC` still gives
the last frame's value (rules R150, R155). -/
def Obligations.ReadoutsInvalidAfterAcknowledge : Prop :=
  ∀ s t : State, s.held = true → exec .decAck s = .next t →
    exec .decHdr t = .next { t with responses := 0x20000000#32 :: t.responses } ∧
    exec .decRxcrc t = .next { t with responses := 0x20000000#32 :: t.responses } ∧
    (∀ i, exec (.decPay i) t = .next { t with responses := 0x20000000#32 :: t.responses }) ∧
    exec .decCalc t = .next { t with responses := (0x0#4 ++ 0x000#12 ++ s.calcReg) :: t.responses }

/-- Rule R56: the six operations without side effect change nothing but the responses, and repeating one gives the same
response; repeating `CRC.LOAD` or `DEC.RESET` has the effect of one; repeating `DEC.ACK` has the effect of one, and the
second responds `INVALID`. -/
def Obligations.RepeatingOperations : Prop :=
  (∀ (s t : State) (i : Instr), i.op ∈ [Op.crcRead, .decStatus, .decHdr, .decPay, .decRxcrc, .decCalc] →
    exec i s = .next t →
    ∃ r, t = { s with responses := r :: s.responses } ∧ exec i t = .next { t with responses := r :: t.responses }) ∧
  (∀ (s t : State) (i : Instr), i.op ∈ [Op.crcLoad, .decReset] → exec i s = .next t →
    ∃ r, t.responses = r :: s.responses ∧ exec i t = .next { t with responses := r :: t.responses }) ∧
  (∀ s t : State, exec .decAck s = .next t →
    exec .decAck t = .next { t with responses := (0x2#4 ++ 0x000#12 ++ t.status) :: t.responses })

/-- `DEC.READPKT` (rule R79) reads a held packet out: in a state that meets the invariant and whose payload is complete,
the responses are, in order, the header and then the payload's bytes, all `OK`, and nothing else changes. -/
def Obligations.ReadPacketReturnsFrame : Prop :=
  ∀ s : State, s.Inv → s.payloadComplete = true →
    (s.payload s.hdrLen.toNat).length = s.hdrLen.toNat ∧
    execAll (expandPseudo s.hdrLen .decReadpkt) s = .next { s with
      responses := ((s.payload s.hdrLen.toNat).map fun b => (0x0#4 ++ 0x000#12 ++ b.setWidth 16 : Word)).reverse ++
        (0x0#4 ++ 0x000#12 ++ (s.hdrLen ++ s.hdrType : Half)) :: s.responses }

/-! ## Whole-machine rules -/

/-- Rule R138: a frame that stops arriving stays where it is. While a frame is being received, a step that brings neither
a `DEC.FEED`, nor `DEC.RESET`, nor a hardware reset leaves the whole decoder as it was; a step that brings nothing is one
of them (that there is such a step is the model's choice, log entry 5). -/
def Obligations.StalledFrameStays : Prop :=
  ∀ s t : State, s.phase.accumulating = true → step s = .next t →
    (∀ x rest, s.inputs = x :: rest →
      ∃ w, x = .command w ∧ decode w ≠ .ok .decReset ∧ ∀ b, decode w ≠ .ok (.decFeed b)) →
    t.decoder = s.decoder

/-- The invariant holds after a hardware reset, and so does the rule about `CALC`: for every configuration, and for the
device's own, which the model leaves open (log entry 2). -/
def Obligations.ResetMeetsInvariants : Prop :=
  (∀ cfg : Config, (State.resetWith cfg).Inv ∧ (State.resetWith cfg).CrcInv) ∧ State.reset.Inv ∧ State.reset.CrcInv

/-- From every state that meets the invariant (rules R24, R26, R29, R129) the block takes a step, and the state after it
meets the invariant: no fault and no refusal can arise. -/
def Obligations.StepKeepsInvariant : Prop :=
  ∀ s : State, s.Inv → ∃ t, step s = .next t ∧ t.Inv

/-- Rules R28 and R130: from the sync on, `CALC` is `calc` of the header and payload bytes consumed so far, and on LOADED
and FAILURE with CHECKSUM it is the one-pass value over the held header and payload; every step keeps this. -/
def Obligations.StepKeepsRunningCrc : Prop :=
  ∀ s t : State, s.Inv → s.CrcInv → step s = .next t → t.CrcInv

/-- No run stops: whatever the host sends, in every state a run reaches the next step is taken (rules R76, R200: no
response code traps or stops the block). -/
def Obligations.NoRunStops : Prop :=
  ∀ s : State, Reachable s → ∃ t, step s = .next t

/-- Unit independence (rule R63): `CRC.*` operations leave the decoder alone and `DEC.*` operations leave `ACC` alone, and
one of each in either order gives the same final state and the same two responses. -/
def Obligations.UnitsAreIndependent : Prop :=
  ∀ (c d : Instr) (s : State),
    c.op ∈ [Op.crcLoad, .crcByte, .crcRead] → d.op ∉ [Op.crcLoad, .crcByte, .crcRead] →
    (∀ t, exec c s = .next t → t.decoder = s.decoder) ∧
    (∀ t, exec d s = .next t → t.acc = s.acc) ∧
    (∀ t, execAll [c, d] s = .next t →
      ∃ r q, t.responses = q :: r :: s.responses ∧
        execAll [d, c] s = .next { t with responses := r :: q :: s.responses })

/-- Payload cells left over from earlier frames cannot be read (rules R26, R30): two states that differ only in such
cells take the same kind of step, give the same responses and go on differing only in such cells. -/
def Obligations.StaleCellsAreInvisible : Prop :=
  ∀ s t s' : State, SameButStale s t → step s = .next s' →
    ∃ t', step t = .next t' ∧ SameButStale s' t'

/-- No backtracking (rule R133): once a decoder scans for a sync, nothing of earlier frames matters. Two decoders with the
same configuration that are in WAIT_SYNC1 answer every stream of bytes alike and end in the same phase, whatever header,
payload, trailer and CRC earlier frames left in them. -/
def Obligations.EarlierFramesDoNotMatter : Prop :=
  ∀ (s t : State) (bytes : List Byte) (s' : State),
    s.phase = .waitSync1 → t.phase = .waitSync1 → s.Inv → t.Inv →
    s.cfg = t.cfg → s.responses = t.responses → feedAll bytes s = .next s' →
    ∃ t', feedAll bytes t = .next t' ∧ t'.responses = s'.responses ∧ t'.phase = s'.phase ∧ t'.reason = s'.reason ∧
      t'.index = s'.index

/-! ## Frames -/

/-- Rules R80 and R81: sync, dataType, length, payload, and the CRC over header and payload with
its low byte first. -/
def Obligations.WireFrameLayout : Prop :=
  ∀ (seed : Half) (dataType : Byte) (payload : List Byte),
    let header := [dataType, BitVec.ofNat 8 payload.length]
    let crc := crcCalc (header ++ payload) seed
    frameBytes seed dataType payload =
      [0x0A#8, 0x55#8, dataType, BitVec.ofNat 8 payload.length] ++ payload ++
        [crc.extractLsb' 0 8, crc.extractLsb' 8 8]

/-- The round trip (rule R135): a frame of a recognised type with any payload of at most 255 bytes, fed from WAIT_SYNC1,
ends LOADED with the type, the length and the payload it was built from, and its last response is `OK` with
`STATUS = LOADED`. -/
def Obligations.FrameRoundTrip : Prop :=
  ∀ (s : State) (dataType : Byte) (payload : List Byte),
    s.Inv → s.phase = .waitSync1 → (typeSize s.cfg dataType).isSome = true → payload.length ≤ 255 →
    ∃ t, feedAll (frameBytes s.cfg.frameSeed dataType payload) s = .next t ∧
      t.phase = .loaded ∧ t.reason = .none ∧ t.hdrType = dataType ∧ t.hdrLen.toNat = payload.length ∧
      t.payload payload.length = payload ∧
      t.rxcrc = frameCrc s.cfg.frameSeed dataType payload ∧ t.calcReg = t.rxcrc ∧
      t.responses.head? = some 0x00000025#32

/-- Re-sync (rule R134): noise without the sync pair, of any length, followed by a valid frame gives exactly one response
with COARSE = Loaded, the `OK` of the last byte; no response before it shows Loaded or Failure; and the held header and
payload are the frame's. -/
def Obligations.ResyncAfterNoise : Prop :=
  ∀ (s : State) (noise : List Byte) (dataType : Byte) (payload : List Byte),
    s.Inv → s.phase = .waitSync1 → ¬ [0x0A#8, 0x55#8] <:+: noise →
    (typeSize s.cfg dataType).isSome = true → payload.length ≤ 255 →
    ∃ t earlier, feedAll (noise ++ frameBytes s.cfg.frameSeed dataType payload) s = .next t ∧
      t.responses = 0x00000025#32 :: (earlier ++ s.responses) ∧
      earlier.length + 1 = noise.length + 6 + payload.length ∧
      (∀ r ∈ earlier, r.extractLsb' 28 4 = 0x0#4 ∧ (r.extractLsb' 4 2 = 0#2 ∨ r.extractLsb' 4 2 = 1#2)) ∧
      t.phase = .loaded ∧ t.hdrType = dataType ∧ t.hdrLen.toNat = payload.length ∧ t.payload payload.length = payload

/-- Single-byte corruption (rule R136): a valid frame with exactly one payload or CRC byte changed ends FAILURE with
reason CHECKSUM, never LOADED; with its type byte changed it ends FAILURE, with UNKNOWN_TYPE when the new type is not
recognised and with CHECKSUM otherwise. -/
def Obligations.OneCorruptedByteFailsFrame : Prop :=
  ∀ (s : State) (dataType : Byte) (payload : List Byte) (k : Nat) (b : Byte),
    s.Inv → s.phase = .waitSync1 → (typeSize s.cfg dataType).isSome = true → payload.length ≤ 255 →
    k < 6 + payload.length → (frameBytes s.cfg.frameSeed dataType payload)[k]? ≠ some b →
    (4 ≤ k → ∃ t, feedAll ((frameBytes s.cfg.frameSeed dataType payload).set k b) s = .next t ∧
      t.phase = .failure ∧ t.reason = .checksum) ∧
    (k = 2 → ∃ t, feedAll ((frameBytes s.cfg.frameSeed dataType payload).set k b) s = .next t ∧
      t.phase = .failure ∧ t.reason = if typeSize s.cfg b = none then .unknownType else .checksum)

/-- The recovery bound (rules R83, R137): whatever bytes follow a sync, the decoder is held after at most 259 more of
them, 261 bytes counted from the first sync byte; after `DEC.ACK` it scans again. -/
def Obligations.HeldWithinLongestFrame : Prop :=
  ∀ (s : State) (bytes : List Byte),
    s.Inv → s.phase = .readHeader → s.index = 0#8 → 259 ≤ bytes.length →
    ∃ t u, feedAll bytes s = .next t ∧ t.held = true ∧ exec .decAck t = .next u ∧ u.phase = .waitSync1
end

