-- ==== Sys2Proof/Laws/Decode.lean ====
section
/-! SUPPORT. The masks of rule R73 read as conditions on the fields of a word, so that no proof works with single bits:
a word matches an imm16 row when its upper half does, an imm8 row when its upper three bytes do. -/

namespace Sys2Proof

/-- A 32-bit word is its upper 16 bits followed by its `IMM`. -/
theorem word_split16 (w : Word) : w = w.extractLsb' 16 16 ++ w.extractLsb' 0 16 := by
  apply BitVec.eq_of_getLsbD_eq
  intro i hi
  simp only [BitVec.getLsbD_append, BitVec.getLsbD_extractLsb']
  by_cases h : i < 16
  · simp [h]
  · simp [h, show i - 16 < 16 by omega, show 16 + (i - 16) = i by omega]

/-- A 32-bit word is its upper 24 bits followed by its low byte. -/
theorem word_split24 (w : Word) : w = w.extractLsb' 8 24 ++ w.extractLsb' 0 8 := by
  apply BitVec.eq_of_getLsbD_eq
  intro i hi
  simp only [BitVec.getLsbD_append, BitVec.getLsbD_extractLsb']
  by_cases h : i < 8
  · simp [h]
  · simp [h, show i - 8 < 24 by omega, show 8 + (i - 8) = i by omega]

theorem and_mask16 (hi lo : BitVec 16) : (hi ++ lo : Word) &&& 0xFFFF0000#32 = hi ++ 0#16 := by
  rw [show (0xFFFF0000#32 : Word) = BitVec.allOnes 16 ++ 0x0000#16 from by decide, BitVec.and_append]
  simp only [BitVec.and_allOnes, BitVec.and_zero]

theorem and_mask24 (hi : BitVec 24) (lo : BitVec 8) : (hi ++ lo : Word) &&& 0xFFFFFF00#32 = hi ++ 0#8 := by
  rw [show (0xFFFFFF00#32 : Word) = BitVec.allOnes 24 ++ 0x00#8 from by decide, BitVec.and_append]
  simp only [BitVec.and_allOnes, BitVec.and_zero]

theorem append16_inj (p q a b : BitVec 16) : (p ++ a : Word) = q ++ b ↔ p = q ∧ a = b := by
  constructor
  · intro h
    have h1 := congrArg (fun w : Word => w.extractLsb' 16 16) h
    have h2 := congrArg (fun w : Word => w.extractLsb' 0 16) h
    simp only [BitVec.extractLsb'_append_eq_left, BitVec.extractLsb'_append_eq_right] at h1 h2
    exact ⟨h1, h2⟩
  · rintro ⟨rfl, rfl⟩; rfl

theorem append24_inj (p q : BitVec 24) (a b : BitVec 8) : (p ++ a : Word) = q ++ b ↔ p = q ∧ a = b := by
  constructor
  · intro h
    have h1 := congrArg (fun w : Word => w.extractLsb' 8 24) h
    have h2 := congrArg (fun w : Word => w.extractLsb' 0 8) h
    simp only [BitVec.extractLsb'_append_eq_left, BitVec.extractLsb'_append_eq_right] at h1 h2
    exact ⟨h1, h2⟩
  · rintro ⟨rfl, rfl⟩; rfl

/-- An imm16 row accepts a word exactly when the upper 16 bits are its `OPC` and a zero `RSV`. -/
theorem accepts_imm16 (o : Op) (p hi lo : BitVec 16) :
    OpcodeRow.accepts ⟨o, p ++ 0#16, 0xFFFF0000#32⟩ (hi ++ lo) = true ↔ hi = p := by
  simp [OpcodeRow.accepts, and_mask16, append16_inj]

/-- An imm8 row accepts a word exactly when the upper 24 bits are its `OPC`, a zero `RSV` and a zero `IMM[15:8]`. -/
theorem accepts_imm8 (o : Op) (p hi : BitVec 24) (lo : BitVec 8) :
    OpcodeRow.accepts ⟨o, p ++ 0#8, 0xFFFFFF00#32⟩ (hi ++ lo) = true ↔ hi = p := by
  simp [OpcodeRow.accepts, and_mask24, append24_inj]

/-- A row of an operation without operand accepts its one word. -/
theorem accepts_none (o : Op) (p w : Word) : OpcodeRow.accepts ⟨o, p, 0xFFFFFFFF#32⟩ w = true ↔ w = p := by
  rw [OpcodeRow.accepts, show (0xFFFFFFFF#32 : Word) = BitVec.allOnes 32 from by decide, BitVec.and_allOnes]
  simp

/-- The word of an imm16 operation: `OPC` and `RSV` before the operand. -/
theorem word_imm16 (opc rsv : BitVec 8) (imm : Half) : Command.word ⟨opc, rsv, imm⟩ = (opc ++ rsv : BitVec 16) ++ imm := rfl

/-- The word of an imm8 operation: three fixed bytes before the operand. -/
theorem word_imm8 (opc : BitVec 8) (b : Byte) :
    Command.word ⟨opc, 0#8, b.setWidth 16⟩ = (opc ++ 0#16 : BitVec 24) ++ b := by
  apply BitVec.eq_of_getLsbD_eq
  intro i hi
  simp only [Command.word, BitVec.getLsbD_append, BitVec.getLsbD_setWidth, BitVec.getLsbD_zero]
  by_cases h1 : i < 8
  · simp [h1, show i < 16 by omega]
  · by_cases h2 : i < 16
    · simp [h1, h2, BitVec.getLsbD_of_ge b i (by omega), show i - 8 < 16 by omega]
    · by_cases h3 : i < 24
      · simp [h1, h2, show i - 16 < 8 by omega, show i - 8 < 16 by omega]
      · simp [h1, h2, show ¬ i - 16 < 8 by omega, show ¬ i - 8 < 16 by omega, show i - 16 - 8 = i - 8 - 16 by omega]

/-- A 32-bit word is its three fields, in order (rule R71). -/
theorem word_split_fields (w : Word) : w = w.extractLsb' 24 8 ++ w.extractLsb' 16 8 ++ w.extractLsb' 0 16 := by
  apply BitVec.eq_of_getLsbD_eq
  intro i hi
  simp only [BitVec.getLsbD_append, BitVec.getLsbD_extractLsb']
  by_cases h : i < 16
  · simp [h]
  · by_cases h2 : i < 24
    · simp [h, show i - 16 < 8 by omega, show 16 + (i - 16) = i by omega]
    · simp [h, show ¬ i - 16 < 8 by omega, show i - 16 -8< 8 by omega, show 24 + (i - 16 -8) = i by omega]

/-- An `IMM` whose upper byte is zero is its low byte, zero-extended. -/
theorem imm_of_high_zero (w : Half) (h : w.extractLsb' 8 8 = 0#8) : w = (w.extractLsb' 0 8).setWidth 16 := by
  apply BitVec.eq_of_getLsbD_eq
  intro i hi
  simp only [BitVec.getLsbD_setWidth, BitVec.getLsbD_extractLsb']
  by_cases h2 : i < 8
  · simp [h2, hi]
  · have := congrArg (fun v => v.getLsbD (i-8)) h
    simp [show i - 8 < 8 by omega, show 8 + (i-8) = i by omega] at this
    simp [h2, this]

/-- The fields of a word made from fields are those fields (rule R71). -/
theorem word_fields (opc rsv : BitVec 8) (imm : Half) :
    (Command.word ⟨opc, rsv, imm⟩).extractLsb' 24 8 = opc ∧ (Command.word ⟨opc, rsv, imm⟩).extractLsb' 16 8 = rsv ∧
      (Command.word ⟨opc, rsv, imm⟩).extractLsb' 0 16 = imm := by
  refine ⟨?_, ?_, ?_⟩ <;> apply BitVec.eq_of_getLsbD_eq <;> intro k hk <;>
    rw [BitVec.getLsbD_extractLsb', Command.word] <;>
    erw [BitVec.getLsbD_append, BitVec.getLsbD_append] 
  · simp [hk, show ¬ (24 + k < 16) by omega, show ¬ (24 + k - 16 < 8) by omega, show 24 + k - 16 - 8 = k by omega]
  · simp [hk, show ¬ (16 + k < 16) by omega]
  · simp [hk]

/-- No two rows of the opcode map accept a common word: there is a bit that both masks cover and on which their match
words differ. -/
theorem opcodeTable_disjoint :
    opcodeTable.Pairwise fun r q => (r.pattern ^^^ q.pattern) &&& r.mask &&& q.mask ≠ 0#32 := by decide

end Sys2Proof
end

