-- ==== Sys2Proof/Laws/Memory.lean ====
section
/-! SUPPORT. The laws of the payload buffer: a read after a write to the same cell gives the byte written, a write leaves
every other cell alone, and every write to a cell that exists keeps the canonical form. -/

namespace Sys2Proof.Machine.Memory

@[simp] theorem read_nil (i : Nat) : Memory.read [] i = none := rfl

theorem read_cons (a : Nat) (b : Byte) (m : Memory) (i : Nat) :
    Memory.read ((a, b) :: m) i = if i = a then some b else Memory.read m i := rfl

@[simp] theorem read_write_same (m : Memory) (i : Nat) (v : Byte) : (m.write i v).read i = some v := by
  induction m with
  | nil => simp [Memory.write, Memory.read]
  | cons c m ih =>
    obtain ⟨a, b⟩ := c
    by_cases h1 : i < a
    · simp [Memory.write, h1, Memory.read]
    · by_cases h2 : i = a
      · simp [Memory.write, h2, Memory.read]
      · simp [Memory.write, h1, h2, Memory.read, ih]

theorem read_write_other (m : Memory) (i j : Nat) (v : Byte) (h : j ≠ i) : (m.write i v).read j = m.read j := by
  induction m with
  | nil => simp [Memory.write, Memory.read, h]
  | cons c m ih =>
    obtain ⟨a, b⟩ := c
    by_cases h1 : i < a
    · simp [Memory.write, h1, Memory.read, h]
    · by_cases h2 : i = a
      · subst h2; simp [Memory.write, Memory.read, h]
      · simp [Memory.write, h1, h2, Memory.read, ih]

theorem risesFrom_write (m : Memory) (lo i : Nat) (v : Byte) (hm : m.risesFrom lo = true) (hlo : lo ≤ i)
    (hi : i < maxPayload) : (m.write i v).risesFrom lo = true := by
  induction m generalizing lo with
  | nil => simp [Memory.write, Memory.risesFrom, hlo, hi]
  | cons c m ih =>
    obtain ⟨a, b⟩ := c
    simp only [Memory.risesFrom, Bool.and_eq_true, decide_eq_true_eq] at hm
    obtain ⟨⟨ha, hb⟩, hrest⟩ := hm
    by_cases h1 : i < a
    · simp only [Memory.write, h1, if_true, Memory.risesFrom, Bool.and_eq_true, decide_eq_true_eq]
      exact ⟨⟨hlo, hi⟩, ⟨by omega, hb⟩, hrest⟩
    · by_cases h2 : i = a
      · subst h2; simp [Memory.write, Memory.risesFrom, hlo, hi, hrest]
      · simp only [Memory.write, h1, h2, if_false, Memory.risesFrom, Bool.and_eq_true, decide_eq_true_eq]
        exact ⟨⟨ha, hb⟩, ih (a + 1) hrest (by omega)⟩

theorem wf_nil : Memory.wf [] = true := rfl

/-- Every write to a cell that exists keeps the canonical form. -/
theorem wf_write (m : Memory) (i : Nat) (v : Byte) (hm : m.wf = true) (hi : i < maxPayload) :
    (m.write i v).wf = true :=
  risesFrom_write m 0 i v hm (Nat.zero_le i) hi

theorem read_eq_none_of_risesFrom (m : Memory) (lo i : Nat) (hm : m.risesFrom lo = true)
    (hi : i < lo ∨ maxPayload ≤ i) : m.read i = none := by
  induction m generalizing lo with
  | nil => rfl
  | cons c m ih =>
    obtain ⟨a, b⟩ := c
    simp only [Memory.risesFrom, Bool.and_eq_true, decide_eq_true_eq] at hm
    obtain ⟨⟨ha, hb⟩, hrest⟩ := hm
    have hne : i ≠ a := by omega
    simpa [Memory.read, hne] using ih (a + 1) hrest (by omega)

/-- No cell outside `0..254` holds a value (rule R50). -/
theorem read_none_outside (m : Memory) (i : Nat) (hm : m.wf = true) (hi : maxPayload ≤ i) : m.read i = none :=
  read_eq_none_of_risesFrom m 0 i hm (.inr hi)

/-- Equal contents are equal data: two buffers in canonical form that read alike are the same list. -/
theorem eq_of_read_eq_from (m n : Memory) (lo : Nat) (hm : m.risesFrom lo = true) (hn : n.risesFrom lo = true)
    (h : ∀ i, m.read i = n.read i) : m = n := by
  induction m generalizing n lo with
  | nil =>
    cases n with
    | nil => rfl
    | cons c n => obtain ⟨a, b⟩ := c; simpa [Memory.read] using h a
  | cons c m ih =>
    obtain ⟨a, b⟩ := c
    cases n with
    | nil => simpa [Memory.read] using h a
    | cons d n =>
      obtain ⟨a', b'⟩ := d
      simp only [Memory.risesFrom, Bool.and_eq_true, decide_eq_true_eq] at hm hn
      have hm0 : ∀ i, i < a + 1 → Memory.read m i = none := fun i hi =>
        read_eq_none_of_risesFrom m (a + 1) i hm.2 (.inl hi)
      have hn0 : ∀ i, i < a' + 1 → Memory.read n i = none := fun i hi =>
        read_eq_none_of_risesFrom n (a' + 1) i hn.2 (.inl hi)
      have haa : a = a' := by
        rcases Nat.lt_trichotomy a a' with hlt | heq | hgt
        · have := h a; simp [Memory.read, Nat.ne_of_lt hlt, hn0 a (by omega)] at this
        · exact heq
        · have := h a'; simp [Memory.read, Nat.ne_of_lt hgt, hm0 a' (by omega)] at this
      subst haa
      have hbb : b = b' := by simpa [Memory.read] using h a
      subst hbb
      congr 1
      refine ih n (a + 1) hm.2 hn.2 fun i => ?_
      by_cases hi : i = a
      · subst hi; rw [hm0 _ (Nat.lt_succ_self _), hn0 _ (Nat.lt_succ_self _)]
      · simpa [Memory.read, hi] using h i

theorem eq_of_read_eq (m n : Memory) (hm : m.wf = true) (hn : n.wf = true) (h : ∀ i, m.read i = n.read i) : m = n :=
  eq_of_read_eq_from m n 0 hm hn h

end Sys2Proof.Machine.Memory
end

