-- ==== Sys2Proof/Laws/State.lean ====
section
/-! SUPPORT. One lemma per field per update of the state, true by rfl, and the unfolding of the updates that are built
from others, so that no later proof unfolds a record update. -/

namespace Sys2Proof.Machine.State

variable (s : State)

/-! ### `setAcc` -/

@[simp] theorem setAcc_cfg (v : Half) : (s.setAcc v).cfg = s.cfg := rfl
@[simp] theorem setAcc_acc (v : Half) : (s.setAcc v).acc = v := rfl
@[simp] theorem setAcc_phase (v : Half) : (s.setAcc v).phase = s.phase := rfl
@[simp] theorem setAcc_reason (v : Half) : (s.setAcc v).reason = s.reason := rfl
@[simp] theorem setAcc_index (v : Half) : (s.setAcc v).index = s.index := rfl
@[simp] theorem setAcc_hdrType (v : Half) : (s.setAcc v).hdrType = s.hdrType := rfl
@[simp] theorem setAcc_hdrLen (v : Half) : (s.setAcc v).hdrLen = s.hdrLen := rfl
@[simp] theorem setAcc_pay (v : Half) : (s.setAcc v).pay = s.pay := rfl
@[simp] theorem setAcc_rxcrc (v : Half) : (s.setAcc v).rxcrc = s.rxcrc := rfl
@[simp] theorem setAcc_calcReg (v : Half) : (s.setAcc v).calcReg = s.calcReg := rfl
@[simp] theorem setAcc_inputs (v : Half) : (s.setAcc v).inputs = s.inputs := rfl
@[simp] theorem setAcc_responses (v : Half) : (s.setAcc v).responses = s.responses := rfl

/-! ### `setPhase` -/

@[simp] theorem setPhase_cfg (p : Phase) : (s.setPhase p).cfg = s.cfg := rfl
@[simp] theorem setPhase_acc (p : Phase) : (s.setPhase p).acc = s.acc := rfl
@[simp] theorem setPhase_phase (p : Phase) : (s.setPhase p).phase = p := rfl
@[simp] theorem setPhase_reason (p : Phase) : (s.setPhase p).reason = s.reason := rfl
@[simp] theorem setPhase_index (p : Phase) : (s.setPhase p).index = s.index := rfl
@[simp] theorem setPhase_hdrType (p : Phase) : (s.setPhase p).hdrType = s.hdrType := rfl
@[simp] theorem setPhase_hdrLen (p : Phase) : (s.setPhase p).hdrLen = s.hdrLen := rfl
@[simp] theorem setPhase_pay (p : Phase) : (s.setPhase p).pay = s.pay := rfl
@[simp] theorem setPhase_rxcrc (p : Phase) : (s.setPhase p).rxcrc = s.rxcrc := rfl
@[simp] theorem setPhase_calcReg (p : Phase) : (s.setPhase p).calcReg = s.calcReg := rfl
@[simp] theorem setPhase_inputs (p : Phase) : (s.setPhase p).inputs = s.inputs := rfl
@[simp] theorem setPhase_responses (p : Phase) : (s.setPhase p).responses = s.responses := rfl

/-! ### `setIndex` -/

@[simp] theorem setIndex_cfg (i : Byte) : (s.setIndex i).cfg = s.cfg := rfl
@[simp] theorem setIndex_acc (i : Byte) : (s.setIndex i).acc = s.acc := rfl
@[simp] theorem setIndex_phase (i : Byte) : (s.setIndex i).phase = s.phase := rfl
@[simp] theorem setIndex_reason (i : Byte) : (s.setIndex i).reason = s.reason := rfl
@[simp] theorem setIndex_index (i : Byte) : (s.setIndex i).index = i := rfl
@[simp] theorem setIndex_hdrType (i : Byte) : (s.setIndex i).hdrType = s.hdrType := rfl
@[simp] theorem setIndex_hdrLen (i : Byte) : (s.setIndex i).hdrLen = s.hdrLen := rfl
@[simp] theorem setIndex_pay (i : Byte) : (s.setIndex i).pay = s.pay := rfl
@[simp] theorem setIndex_rxcrc (i : Byte) : (s.setIndex i).rxcrc = s.rxcrc := rfl
@[simp] theorem setIndex_calcReg (i : Byte) : (s.setIndex i).calcReg = s.calcReg := rfl
@[simp] theorem setIndex_inputs (i : Byte) : (s.setIndex i).inputs = s.inputs := rfl
@[simp] theorem setIndex_responses (i : Byte) : (s.setIndex i).responses = s.responses := rfl

/-! ### `setReason` -/

@[simp] theorem setReason_cfg (r : Reason) : (s.setReason r).cfg = s.cfg := rfl
@[simp] theorem setReason_acc (r : Reason) : (s.setReason r).acc = s.acc := rfl
@[simp] theorem setReason_phase (r : Reason) : (s.setReason r).phase = s.phase := rfl
@[simp] theorem setReason_reason (r : Reason) : (s.setReason r).reason = r := rfl
@[simp] theorem setReason_index (r : Reason) : (s.setReason r).index = s.index := rfl
@[simp] theorem setReason_hdrType (r : Reason) : (s.setReason r).hdrType = s.hdrType := rfl
@[simp] theorem setReason_hdrLen (r : Reason) : (s.setReason r).hdrLen = s.hdrLen := rfl
@[simp] theorem setReason_pay (r : Reason) : (s.setReason r).pay = s.pay := rfl
@[simp] theorem setReason_rxcrc (r : Reason) : (s.setReason r).rxcrc = s.rxcrc := rfl
@[simp] theorem setReason_calcReg (r : Reason) : (s.setReason r).calcReg = s.calcReg := rfl
@[simp] theorem setReason_inputs (r : Reason) : (s.setReason r).inputs = s.inputs := rfl
@[simp] theorem setReason_responses (r : Reason) : (s.setReason r).responses = s.responses := rfl

/-! ### `setHdrType` -/

@[simp] theorem setHdrType_cfg (b : Byte) : (s.setHdrType b).cfg = s.cfg := rfl
@[simp] theorem setHdrType_acc (b : Byte) : (s.setHdrType b).acc = s.acc := rfl
@[simp] theorem setHdrType_phase (b : Byte) : (s.setHdrType b).phase = s.phase := rfl
@[simp] theorem setHdrType_reason (b : Byte) : (s.setHdrType b).reason = s.reason := rfl
@[simp] theorem setHdrType_index (b : Byte) : (s.setHdrType b).index = s.index := rfl
@[simp] theorem setHdrType_hdrType (b : Byte) : (s.setHdrType b).hdrType = b := rfl
@[simp] theorem setHdrType_hdrLen (b : Byte) : (s.setHdrType b).hdrLen = s.hdrLen := rfl
@[simp] theorem setHdrType_pay (b : Byte) : (s.setHdrType b).pay = s.pay := rfl
@[simp] theorem setHdrType_rxcrc (b : Byte) : (s.setHdrType b).rxcrc = s.rxcrc := rfl
@[simp] theorem setHdrType_calcReg (b : Byte) : (s.setHdrType b).calcReg = s.calcReg := rfl
@[simp] theorem setHdrType_inputs (b : Byte) : (s.setHdrType b).inputs = s.inputs := rfl
@[simp] theorem setHdrType_responses (b : Byte) : (s.setHdrType b).responses = s.responses := rfl

/-! ### `setHdrLen` -/

@[simp] theorem setHdrLen_cfg (b : Byte) : (s.setHdrLen b).cfg = s.cfg := rfl
@[simp] theorem setHdrLen_acc (b : Byte) : (s.setHdrLen b).acc = s.acc := rfl
@[simp] theorem setHdrLen_phase (b : Byte) : (s.setHdrLen b).phase = s.phase := rfl
@[simp] theorem setHdrLen_reason (b : Byte) : (s.setHdrLen b).reason = s.reason := rfl
@[simp] theorem setHdrLen_index (b : Byte) : (s.setHdrLen b).index = s.index := rfl
@[simp] theorem setHdrLen_hdrType (b : Byte) : (s.setHdrLen b).hdrType = s.hdrType := rfl
@[simp] theorem setHdrLen_hdrLen (b : Byte) : (s.setHdrLen b).hdrLen = b := rfl
@[simp] theorem setHdrLen_pay (b : Byte) : (s.setHdrLen b).pay = s.pay := rfl
@[simp] theorem setHdrLen_rxcrc (b : Byte) : (s.setHdrLen b).rxcrc = s.rxcrc := rfl
@[simp] theorem setHdrLen_calcReg (b : Byte) : (s.setHdrLen b).calcReg = s.calcReg := rfl
@[simp] theorem setHdrLen_inputs (b : Byte) : (s.setHdrLen b).inputs = s.inputs := rfl
@[simp] theorem setHdrLen_responses (b : Byte) : (s.setHdrLen b).responses = s.responses := rfl

/-! ### `setPay` -/

@[simp] theorem setPay_cfg (m : Memory) : (s.setPay m).cfg = s.cfg := rfl
@[simp] theorem setPay_acc (m : Memory) : (s.setPay m).acc = s.acc := rfl
@[simp] theorem setPay_phase (m : Memory) : (s.setPay m).phase = s.phase := rfl
@[simp] theorem setPay_reason (m : Memory) : (s.setPay m).reason = s.reason := rfl
@[simp] theorem setPay_index (m : Memory) : (s.setPay m).index = s.index := rfl
@[simp] theorem setPay_hdrType (m : Memory) : (s.setPay m).hdrType = s.hdrType := rfl
@[simp] theorem setPay_hdrLen (m : Memory) : (s.setPay m).hdrLen = s.hdrLen := rfl
@[simp] theorem setPay_pay (m : Memory) : (s.setPay m).pay = m := rfl
@[simp] theorem setPay_rxcrc (m : Memory) : (s.setPay m).rxcrc = s.rxcrc := rfl
@[simp] theorem setPay_calcReg (m : Memory) : (s.setPay m).calcReg = s.calcReg := rfl
@[simp] theorem setPay_inputs (m : Memory) : (s.setPay m).inputs = s.inputs := rfl
@[simp] theorem setPay_responses (m : Memory) : (s.setPay m).responses = s.responses := rfl

/-! ### `setRxcrc` -/

@[simp] theorem setRxcrc_cfg (v : Half) : (s.setRxcrc v).cfg = s.cfg := rfl
@[simp] theorem setRxcrc_acc (v : Half) : (s.setRxcrc v).acc = s.acc := rfl
@[simp] theorem setRxcrc_phase (v : Half) : (s.setRxcrc v).phase = s.phase := rfl
@[simp] theorem setRxcrc_reason (v : Half) : (s.setRxcrc v).reason = s.reason := rfl
@[simp] theorem setRxcrc_index (v : Half) : (s.setRxcrc v).index = s.index := rfl
@[simp] theorem setRxcrc_hdrType (v : Half) : (s.setRxcrc v).hdrType = s.hdrType := rfl
@[simp] theorem setRxcrc_hdrLen (v : Half) : (s.setRxcrc v).hdrLen = s.hdrLen := rfl
@[simp] theorem setRxcrc_pay (v : Half) : (s.setRxcrc v).pay = s.pay := rfl
@[simp] theorem setRxcrc_rxcrc (v : Half) : (s.setRxcrc v).rxcrc = v := rfl
@[simp] theorem setRxcrc_calcReg (v : Half) : (s.setRxcrc v).calcReg = s.calcReg := rfl
@[simp] theorem setRxcrc_inputs (v : Half) : (s.setRxcrc v).inputs = s.inputs := rfl
@[simp] theorem setRxcrc_responses (v : Half) : (s.setRxcrc v).responses = s.responses := rfl

/-! ### `setCalc` -/

@[simp] theorem setCalc_cfg (v : Half) : (s.setCalc v).cfg = s.cfg := rfl
@[simp] theorem setCalc_acc (v : Half) : (s.setCalc v).acc = s.acc := rfl
@[simp] theorem setCalc_phase (v : Half) : (s.setCalc v).phase = s.phase := rfl
@[simp] theorem setCalc_reason (v : Half) : (s.setCalc v).reason = s.reason := rfl
@[simp] theorem setCalc_index (v : Half) : (s.setCalc v).index = s.index := rfl
@[simp] theorem setCalc_hdrType (v : Half) : (s.setCalc v).hdrType = s.hdrType := rfl
@[simp] theorem setCalc_hdrLen (v : Half) : (s.setCalc v).hdrLen = s.hdrLen := rfl
@[simp] theorem setCalc_pay (v : Half) : (s.setCalc v).pay = s.pay := rfl
@[simp] theorem setCalc_rxcrc (v : Half) : (s.setCalc v).rxcrc = s.rxcrc := rfl
@[simp] theorem setCalc_calcReg (v : Half) : (s.setCalc v).calcReg = v := rfl
@[simp] theorem setCalc_inputs (v : Half) : (s.setCalc v).inputs = s.inputs := rfl
@[simp] theorem setCalc_responses (v : Half) : (s.setCalc v).responses = s.responses := rfl

/-! ### `setInputs` -/

@[simp] theorem setInputs_cfg (q : List HostInput) : (s.setInputs q).cfg = s.cfg := rfl
@[simp] theorem setInputs_acc (q : List HostInput) : (s.setInputs q).acc = s.acc := rfl
@[simp] theorem setInputs_phase (q : List HostInput) : (s.setInputs q).phase = s.phase := rfl
@[simp] theorem setInputs_reason (q : List HostInput) : (s.setInputs q).reason = s.reason := rfl
@[simp] theorem setInputs_index (q : List HostInput) : (s.setInputs q).index = s.index := rfl
@[simp] theorem setInputs_hdrType (q : List HostInput) : (s.setInputs q).hdrType = s.hdrType := rfl
@[simp] theorem setInputs_hdrLen (q : List HostInput) : (s.setInputs q).hdrLen = s.hdrLen := rfl
@[simp] theorem setInputs_pay (q : List HostInput) : (s.setInputs q).pay = s.pay := rfl
@[simp] theorem setInputs_rxcrc (q : List HostInput) : (s.setInputs q).rxcrc = s.rxcrc := rfl
@[simp] theorem setInputs_calcReg (q : List HostInput) : (s.setInputs q).calcReg = s.calcReg := rfl
@[simp] theorem setInputs_inputs (q : List HostInput) : (s.setInputs q).inputs = q := rfl
@[simp] theorem setInputs_responses (q : List HostInput) : (s.setInputs q).responses = s.responses := rfl

/-! ### `respond` -/

@[simp] theorem respond_cfg (rc : RespCode) (d : Half) : (s.respond rc d).cfg = s.cfg := rfl
@[simp] theorem respond_acc (rc : RespCode) (d : Half) : (s.respond rc d).acc = s.acc := rfl
@[simp] theorem respond_phase (rc : RespCode) (d : Half) : (s.respond rc d).phase = s.phase := rfl
@[simp] theorem respond_reason (rc : RespCode) (d : Half) : (s.respond rc d).reason = s.reason := rfl
@[simp] theorem respond_index (rc : RespCode) (d : Half) : (s.respond rc d).index = s.index := rfl
@[simp] theorem respond_hdrType (rc : RespCode) (d : Half) : (s.respond rc d).hdrType = s.hdrType := rfl
@[simp] theorem respond_hdrLen (rc : RespCode) (d : Half) : (s.respond rc d).hdrLen = s.hdrLen := rfl
@[simp] theorem respond_pay (rc : RespCode) (d : Half) : (s.respond rc d).pay = s.pay := rfl
@[simp] theorem respond_rxcrc (rc : RespCode) (d : Half) : (s.respond rc d).rxcrc = s.rxcrc := rfl
@[simp] theorem respond_calcReg (rc : RespCode) (d : Half) : (s.respond rc d).calcReg = s.calcReg := rfl
@[simp] theorem respond_inputs (rc : RespCode) (d : Half) : (s.respond rc d).inputs = s.inputs := rfl
@[simp] theorem respond_responses (rc : RespCode) (d : Half) : (s.respond rc d).responses = respWord rc d :: s.responses := rfl

/-! ### Updates built from others -/

@[simp] theorem absorb_eq (b : Byte) : s.absorb b = s.setCalc (crcStep s.calcReg b) := rfl
@[simp] theorem setRxLow_eq (b : Byte) : s.setRxLow b = s.setRxcrc (packBytes (highByte s.rxcrc) b) := rfl
@[simp] theorem setRxHigh_eq (b : Byte) : s.setRxHigh b = s.setRxcrc (packBytes b (lowByte s.rxcrc)) := rfl
@[simp] theorem respondStatus_eq (rc : RespCode) : s.respondStatus rc = s.respond rc s.status := rfl
@[simp] theorem raiseFailure_eq (r : Reason) :
    s.raiseFailure r = ((s.setPhase .failure).setReason r).setIndex 0#8 := rfl
@[simp] theorem enterLoaded_eq : s.enterLoaded = (s.setPhase .loaded).setIndex 0#8 := rfl
@[simp] theorem release_eq : s.release = ((s.setPhase .waitSync1).setReason .none).setIndex 0#8 := rfl
@[simp] theorem resetDecoder_eq :
    s.resetDecoder = ((((s.release).setHdrType 0#8).setHdrLen 0#8).setRxcrc 0#16).setCalc s.cfg.frameSeed := rfl

/-! ### The views of the flags depend on the flags alone -/

@[simp] theorem held_eq : s.held = s.phase.held := rfl
theorem payloadComplete_eq : s.payloadComplete = (s.phase == .loaded || (s.phase == .failure && s.reason == .checksum)) :=
  rfl
theorem status_eq : s.status = s.index ++ s.reason.code ++ s.phase.coarse ++ 0#1 ++ s.phase.code := rfl
@[simp] theorem status_respond (rc : RespCode) (d : Half) : (s.respond rc d).status = s.status := rfl
@[simp] theorem status_setInputs (q : List HostInput) : (s.setInputs q).status = s.status := rfl
@[simp] theorem status_setPay (m : Memory) : (s.setPay m).status = s.status := rfl
@[simp] theorem status_setAcc (v : Half) : (s.setAcc v).status = s.status := rfl

/-! ### `STATUS` and the response after a release or a reset -/

theorem status_release : s.release.status = 0#16 := by
  show (0#8 ++ 0#2 ++ 0#2 ++ 0#1 ++ 0#3 : Half) = 0#16
  decide

theorem status_resetDecoder : s.resetDecoder.status = 0#16 := by
  show (0#8 ++ 0#2 ++ 0#2 ++ 0#1 ++ 0#3 : Half) = 0#16
  decide

theorem status_resetWith (cfg : Config) : (State.resetWith cfg).status = 0#16 := by
  show (0#8 ++ 0#2 ++ 0#2 ++ 0#1 ++ 0#3 : Half) = 0#16
  decide

theorem respWord_ok_zero : respWord .ok 0#16 = 0#32 := by decide

theorem respWord_invalid_zero : respWord .invalid 0#16 = 0x20000000#32 := by decide

theorem respWord_illegal_zero : respWord .illegal 0#16 = 0x30000000#32 := by decide

end Sys2Proof.Machine.State
end

