-- ==== Sys2Proof/Laws/Ops.lean ====
section
/-! SUPPORT. For each shared operation, one lemma that says everything it can do when it answers a next state; the
proofs cite these and do not unfold the operations. -/

namespace Sys2Proof.Machine

@[simp] theorem andThen_next (s : State) (f : State → State) : andThen (.next s) f = .next (f s) := rfl

theorem andThen_next_iff (o : Host.Outcome State Fault Refusal) (f : State → State) (t : State) :
    andThen o f = .next t ↔ ∃ u, o = .next u ∧ t = f u := by
  cases o with
  | next s => simp [andThen, eq_comm]
  | fault r => simp [andThen]
  | refused r => simp [andThen]

/-- A store answers a next state exactly when its cell exists, and then changes that cell alone. -/
theorem storePay_next_iff (i b : Byte) (s t : State) :
    storePay i b s = .next t ↔ i.toNat < maxPayload ∧ t = s.setPay (s.pay.write i.toNat b) := by
  unfold storePay
  split
  · simp_all [eq_comm]
  · simp_all

/-- A load answers a byte exactly when its cell exists and was written. -/
theorem loadPay_ok_iff (i b : Byte) (s : State) :
    loadPay i s = .ok b ↔ i.toNat < maxPayload ∧ s.pay.read i.toNat = some b := by
  unfold loadPay
  split
  · split <;> simp_all
  · simp_all

theorem takeInput_nil (s : State) (h : s.inputs = []) : takeInput s = none := by simp [takeInput, h]

theorem takeInput_cons (s : State) (x : HostInput) (rest : List HostInput) (h : s.inputs = x :: rest) :
    takeInput s = some (x, s.setInputs rest) := by simp [takeInput, h]

theorem illegal_eq (s : State) : illegal s = .next (s.respond .illegal 0#16) := rfl

theorem execAll_nil (s : State) : execAll [] s = .next s := rfl

theorem execAll_cons_next (i : Instr) (is : List Instr) (s t : State) (h : exec i s = .next t) :
    execAll (i :: is) s = execAll is t := by simp [execAll, h]

theorem execAll_append (is js : List Instr) (s t : State) (h : execAll is s = .next t) :
    execAll (is ++ js) s = execAll js t := by
  induction is generalizing s with
  | nil => simp only [execAll, Host.Outcome.next.injEq] at h; subst h; rfl
  | cons i is ih =>
    simp only [execAll, List.cons_append] at h ⊢
    split at h
    · exact ih _ h
    · cases h
    · cases h

end Sys2Proof.Machine
end

