-- ==== Sys2Proof/Laws/Exec.lean ====
section
/-! SUPPORT. Inversion lemmas: for each meaning that has cases, and for `runCommand` and `step`, everything that can
happen when it answers a next state. Each meaning is unfolded here and nowhere else. -/

namespace Sys2Proof.Machine

/-! ### The arms of `DEC.FEED`, case by case -/

theorem stepSync1_sync (s : State) : stepSync1 sync1 s = s.setPhase .waitSync2 := if_pos rfl

theorem stepSync1_other (b : Byte) (s : State) (hb : b ≠ sync1) : stepSync1 b s = s := if_neg hb

theorem stepSync2_sync (s : State) :
    stepSync2 sync2 s = ((s.setPhase .readHeader).setIndex 0#8).setCalc s.cfg.frameSeed := if_pos rfl

theorem stepSync2_again (s : State) : stepSync2 sync1 s = s.setPhase .waitSync2 := rfl

theorem stepSync2_other (b : Byte) (s : State) (h2 : b ≠ sync2) (h1 : b ≠ sync1) :
    stepSync2 b s = s.setPhase .waitSync1 := by
  rw [stepSync2, if_neg h2, if_neg h1]

theorem stepHdr0_eq (b : Byte) (s : State) :
    stepHdr0 b s = ((s.setHdrType b).setCalc (crcStep s.calcReg b)).setIndex 1#8 := rfl

theorem stepHdr1_unknown (b : Byte) (s : State) (h : typeSize s.cfg s.hdrType = none) :
    stepHdr1 b s =
      ((((s.setHdrLen b).setCalc (crcStep s.calcReg b)).setPhase .failure).setReason .unknownType).setIndex 0#8 := by
  have h' : (typeSize s.cfg s.hdrType).isNone = true := by rw [h]; rfl
  exact (if_pos h').trans rfl

theorem stepHdr1_noPayload (s : State) (h : (typeSize s.cfg s.hdrType).isSome = true) :
    stepHdr1 0#8 s = (((s.setHdrLen 0#8).setCalc (crcStep s.calcReg 0#8)).setPhase .verifyCrc).setIndex 0#8 := by
  have h' : ¬ (typeSize s.cfg s.hdrType).isNone = true := by simpa [Option.isSome_iff_ne_none] using h
  exact (if_neg h').trans rfl

theorem stepHdr1_payload (b : Byte) (s : State) (h : (typeSize s.cfg s.hdrType).isSome = true) (hb : b ≠ 0#8) :
    stepHdr1 b s = (((s.setHdrLen b).setCalc (crcStep s.calcReg b)).setPhase .readPayload).setIndex 0#8 := by
  have h' : ¬ (typeSize s.cfg s.hdrType).isNone = true := by simpa [Option.isSome_iff_ne_none] using h
  exact (if_neg h').trans ((if_neg hb).trans rfl)

theorem stepCrc_low (b : Byte) (s : State) (hi : s.index = 0#8) :
    stepCrc b s = (s.setRxcrc (packBytes (highByte s.rxcrc) b)).setIndex 1#8 := if_pos hi

theorem stepCrc_match (b : Byte) (s : State) (hi : s.index ≠ 0#8) (hc : packBytes b (lowByte s.rxcrc) = s.calcReg) :
    stepCrc b s = ((s.setRxcrc (packBytes b (lowByte s.rxcrc))).setPhase .loaded).setIndex 0#8 :=
  (if_neg hi).trans ((if_pos hc).trans rfl)

theorem stepCrc_mismatch (b : Byte) (s : State) (hi : s.index ≠ 0#8)
    (hc : packBytes b (lowByte s.rxcrc) ≠ s.calcReg) :
    stepCrc b s =
      (((s.setRxcrc (packBytes b (lowByte s.rxcrc))).setPhase .failure).setReason .checksum).setIndex 0#8 :=
  (if_neg hi).trans ((if_neg hc).trans rfl)

/-- Everything `stepPayload` can do: it stores the byte, updates `CALC`, and either ends the payload or moves on. -/
theorem stepPayload_next_iff (b : Byte) (s t : State) :
    stepPayload b s = .next t ↔
      s.index.toNat < maxPayload ∧
        t = (if s.index + 1#8 = s.hdrLen then
              (((s.setPay (s.pay.write s.index.toNat b)).setCalc (crcStep s.calcReg b)).setPhase .verifyCrc).setIndex 0#8
            else
              ((s.setPay (s.pay.write s.index.toNat b)).setCalc (crcStep s.calcReg b)).setIndex (s.index + 1#8)) := by
  unfold stepPayload
  rw [andThen_next_iff]
  constructor
  · rintro ⟨u, hu, rfl⟩
    obtain ⟨hlt, rfl⟩ := (storePay_next_iff _ _ _ _).1 hu
    exact ⟨hlt, rfl⟩
  · rintro ⟨hlt, rfl⟩
    exact ⟨_, (storePay_next_iff _ _ _ _).2 ⟨hlt, rfl⟩, rfl⟩

/-- Everything `DEC.FEED` can do when it answers a next state. -/
theorem execDecFeed_cases (b : Byte) (s t : State) (h : execDecFeed b s = .next t) :
    (s.held = true ∧ t = s.respondStatus .busy) ∨
    (s.phase = .waitSync1 ∧ t = (stepSync1 b s).respondStatus .ok) ∨
    (s.phase = .waitSync2 ∧ t = (stepSync2 b s).respondStatus .ok) ∨
    (s.phase = .readHeader ∧ s.index = 0#8 ∧ t = (stepHdr0 b s).respondStatus .ok) ∨
    (s.phase = .readHeader ∧ s.index ≠ 0#8 ∧ t = (stepHdr1 b s).respondStatus .ok) ∨
    (s.phase = .readPayload ∧ ∃ u, stepPayload b s = .next u ∧ t = u.respondStatus .ok) ∨
    (s.phase = .verifyCrc ∧ t = (stepCrc b s).respondStatus .ok) := by
  unfold execDecFeed at h
  split at h
  · rename_i hheld
    simp only [Host.Outcome.next.injEq] at h
    exact .inl ⟨hheld, h.symm⟩
  · rename_i hheld
    obtain ⟨u, hu, rfl⟩ := (andThen_next_iff _ _ _).1 h
    unfold consumeByte at hu
    cases hp : s.phase with
    | waitSync1 => simp only [hp, Host.Outcome.next.injEq] at hu; subst hu; simp [hp]
    | waitSync2 => simp only [hp, Host.Outcome.next.injEq] at hu; subst hu; simp [hp]
    | readHeader =>
      by_cases hi : s.index = 0#8
      · simp only [hp, hi, if_true, Host.Outcome.next.injEq] at hu; subst hu; simp [hp, hi]
      · simp only [hp, hi, if_false, Host.Outcome.next.injEq] at hu; subst hu; simp [hp, hi]
    | readPayload =>
      simp only [hp] at hu
      exact .inr (.inr (.inr (.inr (.inr (.inl ⟨rfl, u, hu, rfl⟩)))))
    | verifyCrc => simp only [hp, Host.Outcome.next.injEq] at hu; subst hu; simp [hp]
    | loaded => simp [hp, Phase.held] at hheld
    | failure => simp [hp, Phase.held] at hheld

/-- Everything `DEC.PAY` can do when it answers a next state. -/
theorem execDecPay_cases (k : Byte) (s t : State) (h : execDecPay k s = .next t) :
    (s.payloadComplete = true ∧ k.toNat < s.hdrLen.toNat ∧ k.toNat < maxPayload ∧
      ∃ b, s.pay.read k.toNat = some b ∧ t = s.respond .ok (zext16 b)) ∨
    (¬ (s.payloadComplete = true ∧ k.toNat < s.hdrLen.toNat) ∧ t = s.respondStatus .invalid) := by
  unfold execDecPay at h
  split at h
  · rename_i hc
    simp only [Bool.and_eq_true, decide_eq_true_eq] at hc
    split at h
    · rename_i b hb
      obtain ⟨h1, h2⟩ := (loadPay_ok_iff _ _ _).1 hb
      simp only [Host.Outcome.next.injEq] at h
      exact .inl ⟨hc.1, hc.2, h1, b, h2, h.symm⟩
    · cases h
  · rename_i hc
    simp only [Bool.and_eq_true, decide_eq_true_eq] at hc
    simp only [Host.Outcome.next.injEq] at h
    exact .inr ⟨hc, h.symm⟩

/-- Everything a step can do when it answers a next state. -/
theorem step_cases (s t : State) (h : step s = .next t) :
    (s.inputs = [] ∧ t = s) ∨
    (∃ w rest i, s.inputs = .command w :: rest ∧ decode w = .ok i ∧ exec i (s.setInputs rest) = .next t) ∨
    (∃ w rest e, s.inputs = .command w :: rest ∧ decode w = .error e ∧
      t = (s.setInputs rest).respond .illegal 0#16) ∨
    (∃ x rest, s.inputs = x :: rest ∧ (x = .reset ∨ ∃ w, x = .resetAndCommand w) ∧
      t = hardwareReset (s.setInputs rest)) := by
  unfold step at h
  cases hq : s.inputs with
  | nil =>
    simp only [takeInput_nil s hq, idle, Host.Outcome.next.injEq] at h
    exact .inl ⟨rfl, h.symm⟩
  | cons x rest =>
    rw [takeInput_cons s x rest hq] at h
    cases x with
    | command w =>
      simp only [runCommand] at h
      split at h
      · rename_i i hi
        exact .inr (.inl ⟨w, rest, i, rfl, hi, h⟩)
      · rename_i e he
        simp only [illegal_eq, Host.Outcome.next.injEq] at h
        exact .inr (.inr (.inl ⟨w, rest, e, rfl, he, h.symm⟩))
    | reset =>
      simp only [Host.Outcome.next.injEq] at h
      exact .inr (.inr (.inr ⟨_, rest, rfl, .inl rfl, h.symm⟩))
    | resetAndCommand w =>
      simp only [Host.Outcome.next.injEq] at h
      exact .inr (.inr (.inr ⟨_, rest, rfl, .inr ⟨w, rfl⟩, h.symm⟩))

end Sys2Proof.Machine
end

