-- ==== Sys2Proof/Laws/PerInstr.lean ====
section
/-! SUPPORT. Statements made for each constructor of `Instr`, one lemma a constructor. `RowAccepts`: the opcode map has a
row of the instruction's operation, and that row accepts the instruction's word. -/

namespace Sys2Proof.Laws.RowAccepts

/-- The word of `i` is accepted by a row of rule R73 that stands for the operation of `i`, and carries the operand back. -/
def Statement (i : Instr) : Prop :=
  ∃ r ∈ opcodeTable, r.op = i.op ∧ r.accepts (encode i) = true ∧ r.op.withOperand (encode i) = i

theorem crcLoad (seed : Half) : Statement (.crcLoad seed) := by
  refine ⟨⟨.crcLoad, 0x01000000#32, 0xFFFF0000#32⟩, by decide, rfl, ?_, ?_⟩
  · exact (accepts_imm16 .crcLoad 0x0100#16 _ seed).2 (show (0x01#8 ++ 0x00#8 : BitVec 16) = 0x0100#16 from by decide)
  · show Instr.crcLoad (immField (encode (.crcLoad seed))) = _
    rw [immField, encode, Instr.command, word_imm16, BitVec.extractLsb'_append_eq_right]
    rfl

theorem imm8 (o : Op) (p : BitVec 24) (opc : BitVec 8) (b : Byte) (hp : p = opc ++ 0#16) :
    OpcodeRow.accepts ⟨o, p ++ 0#8, 0xFFFFFF00#32⟩ (Command.word ⟨opc, 0#8, b.setWidth 16⟩) = true ∧
      immByte (Command.word ⟨opc, 0#8, b.setWidth 16⟩) = b := by
  rw [word_imm8, accepts_imm8, immByte, BitVec.extractLsb'_append_eq_right]
  exact ⟨hp.symm, rfl⟩

theorem crcByte (b : Byte) : Statement (.crcByte b) := by
  obtain ⟨h1, h2⟩ := imm8 .crcByte 0x020000#24 0x02#8 b rfl
  exact ⟨⟨.crcByte, 0x02000000#32, 0xFFFFFF00#32⟩, by decide, rfl, h1, congrArg Instr.crcByte h2⟩

theorem decFeed (b : Byte) : Statement (.decFeed b) := by
  obtain ⟨h1, h2⟩ := imm8 .decFeed 0x100000#24 0x10#8 b rfl
  exact ⟨⟨.decFeed, 0x10000000#32, 0xFFFFFF00#32⟩, by decide, rfl, h1, congrArg Instr.decFeed h2⟩

theorem decPay (i : Byte) : Statement (.decPay i) := by
  obtain ⟨h1, h2⟩ := imm8 .decPay 0x140000#24 0x14#8 i rfl
  exact ⟨⟨.decPay, 0x14000000#32, 0xFFFFFF00#32⟩, by decide, rfl, h1, congrArg Instr.decPay h2⟩

theorem crcRead : Statement .crcRead := ⟨⟨.crcRead, 0x03000000#32, 0xFFFFFFFF#32⟩, by decide, rfl, by decide, rfl⟩
theorem decAck : Statement .decAck := ⟨⟨.decAck, 0x11000000#32, 0xFFFFFFFF#32⟩, by decide, rfl, by decide, rfl⟩
theorem decStatus : Statement .decStatus := ⟨⟨.decStatus, 0x12000000#32, 0xFFFFFFFF#32⟩, by decide, rfl, by decide, rfl⟩
theorem decHdr : Statement .decHdr := ⟨⟨.decHdr, 0x13000000#32, 0xFFFFFFFF#32⟩, by decide, rfl, by decide, rfl⟩
theorem decRxcrc : Statement .decRxcrc := ⟨⟨.decRxcrc, 0x15000000#32, 0xFFFFFFFF#32⟩, by decide, rfl, by decide, rfl⟩
theorem decCalc : Statement .decCalc := ⟨⟨.decCalc, 0x16000000#32, 0xFFFFFFFF#32⟩, by decide, rfl, by decide, rfl⟩
theorem decReset : Statement .decReset := ⟨⟨.decReset, 0x17000000#32, 0xFFFFFFFF#32⟩, by decide, rfl, by decide, rfl⟩

end Sys2Proof.Laws.RowAccepts
end

