-- ==== Sys2Proof/Tests/Slice0.lean ====
section
/-! SUPPORT. The model's own tests: the checks of WellFormed.lean on ill-formed terms; decoding of words written from
30_encoding.md; single steps whose expected values stand in 95_test_vectors.md (the row is named beside each test); and
for every obligation with hypotheses a state and operands that meet them all. -/

namespace Sys2Proof.Tests

open Sys2Proof.Machine

-- One test after another: each kernel evaluation in its own thread costs memory and gains nothing here.
set_option Elab.async false

/-! ### Helpers -/

/-- Test configuration TC of 95_test_vectors.md section 0. -/
def tc : Config := ⟨0x0000#16, [(0x10#8, 4#8), (0x04#8, 1#8), (0x02#8, 0#8)]⟩

/-- TC with `FRAME_SEED = 0xFFFF`. -/
def tcF : Config := ⟨0xFFFF#16, tc.typeTable⟩

/-- The next state of an outcome, if it is one. -/
def next? : Host.Outcome State Fault Refusal → Option State
  | .next s => some s
  | .fault _ => none
  | .refused _ => none

theorem next?_some (o : Host.Outcome State Fault Refusal) (t : State) (h : next? o = some t) : o = .next t := by
  cases o with
  | next s => exact congrArg Host.Outcome.next (Option.some.inj h)
  | fault r => cases h
  | refused r => cases h

/-- The response to one word, and the state after it, from `s`. -/
def run1 (s : State) (w : Nat) : Option (Word × State) :=
  (next? (step (s.withFetchWord 32 w))).bind fun t => t.responses.head?.map fun r => (r, t)

/-- The response to one word from `s`. -/
def resp (s : State) (w : Nat) : Option Word := (run1 s w).map Prod.fst

/-- A part of the state after one word from `s`. -/
def after {α : Type} (f : State → α) (s : State) (w : Nat) : Option α := (run1 s w).map fun p => f p.2

/-- The state after reset, as the `reset` column of 95_test_vectors.md section 6 has it. -/
def sReset : State := State.resetWith tc
def sSync2 : State := { sReset with phase := .waitSync2 }
def sHdr0 : State := { sReset with phase := .readHeader }
/-- After `0A 55 ty`, with the CRC value `T[ty]` that rule R101's table gives for that type byte. -/
def sHdr1 (ty : Byte) (c : Half) : State := { sHdr0 with index := 1#8, hdrType := ty, calcReg := c }
/-- After `0A 55 10 04`. -/
def sPay0 : State := { sReset with phase := .readPayload, hdrType := 0x10#8, hdrLen := 4#8, calcReg := 0x43F7#16 }
/-- After `0A 55 10 04 0A FB`: the `mid` column. -/
def sMid : State := { sPay0 with index := 2#8, pay := [(0, 0x0A#8), (1, 0xFB#8)], calcReg := 0x76D8#16 }
/-- After `0A 55 10 04 0A FB 00`. -/
def sPay3 : State := { sMid with index := 3#8, pay := sMid.pay ++ [(2, 0x00#8)], calcReg := 0xC651#16 }
/-- After `0A 55 10 04 0A FB 00 32`. -/
def sCrc0 : State := { sPay3 with phase := .verifyCrc, index := 0#8, pay := sPay3.pay ++ [(3, 0x32#8)], calcReg := 0xFE9B#16 }
def sCrc1 : State := { sCrc0 with index := 1#8, rxcrc := 0x009B#16 }
/-- After the whole Control frame: the `loaded` column. -/
def sLoaded : State := { sCrc0 with phase := .loaded, rxcrc := 0xFE9B#16 }
/-- The `fail-ck` column. -/
def sBad : State :=
  { sLoaded with phase := .failure, reason := .checksum, calcReg := 0xC9AB#16,
                 pay := [(0, 0x0A#8), (1, 0xFA#8), (2, 0x00#8), (3, 0x32#8)] }
/-- The `fail-ut` column. -/
def sUnk : State := { sReset with phase := .failure, reason := .unknownType, hdrType := 0xEE#8, calcReg := 0x33BD#16 }
/-- The longest frame before its last payload byte: cells 0 to 253 hold 0 to 253 (row F19). -/
def sLong : State :=
  { sReset with phase := .readPayload, index := 254#8, hdrType := 0x10#8, hdrLen := 255#8,
                pay := (List.range 254).map fun i => (i, BitVec.ofNat 8 i) }
/-- A state that no run reaches: a payload position at the cell that does not exist. -/
def sNoCell : State := { sLong with index := 255#8 }
/-- A state that no run reaches: LOADED with cells that were never written. -/
def sUnwritten : State := { sLoaded with pay := [] }

/-! ### Well-formedness: a term that each check refuses, and one that it accepts -/

theorem test_wf_reservedOpc : Command.wellFormed ⟨0x04#8, 0#8, 0#16⟩ = false := by decide
theorem test_wf_rsv : Command.wellFormed ⟨0x01#8, 0xFF#8, 0#16⟩ = false := by decide
theorem test_wf_immHigh : Command.wellFormed ⟨0x02#8, 0#8, 0x0141#16⟩ = false := by decide
theorem test_wf_immNone : Command.wellFormed ⟨0x03#8, 0#8, 0x0001#16⟩ = false := by decide
theorem test_wf_accepts : Command.wellFormed ⟨0x01#8, 0#8, 0xFFFF#16⟩ = true ∧
    Command.wellFormed ⟨0x14#8, 0#8, 0x00FF#16⟩ = true ∧ Command.wellFormed ⟨0x17#8, 0#8, 0#16⟩ = true := by decide
theorem test_wf_asm_imm16 : AsmCommand.wellFormed ⟨.crcLoad, some 65536⟩ = false := by decide
theorem test_wf_asm_imm8 : AsmCommand.wellFormed ⟨.decFeed, some 256⟩ = false := by decide
theorem test_wf_asm_missing : AsmCommand.wellFormed ⟨.crcByte, none⟩ = false ∧
    AsmCommand.wellFormed ⟨.crcLoad, none⟩ = false := by decide
theorem test_wf_asm_extra : AsmCommand.wellFormed ⟨.decAck, some 0⟩ = false := by decide
theorem test_wf_asm_accepts : AsmCommand.wellFormed ⟨.crcLoad, some 65535⟩ = true ∧
    AsmCommand.wellFormed ⟨.decPay, some 255⟩ = true ∧ AsmCommand.wellFormed ⟨.decAck, none⟩ = true := by decide

/-! ### Decoding, each word written from rules R71 to R73: `{OPC, RSV, IMM}` -/

theorem test_decode_crcLoad : decode 0x01001234#32 = .ok (.crcLoad 0x1234#16) := by rfl
theorem test_decode_crcByte : decode 0x02000041#32 = .ok (.crcByte 0x41#8) := by rfl
theorem test_decode_crcRead : decode 0x03000000#32 = .ok .crcRead := by rfl
theorem test_decode_decFeed : decode 0x1000000A#32 = .ok (.decFeed 0x0A#8) := by rfl
theorem test_decode_decAck : decode 0x11000000#32 = .ok .decAck := by rfl
theorem test_decode_decStatus : decode 0x12000000#32 = .ok .decStatus := by rfl
theorem test_decode_decHdr : decode 0x13000000#32 = .ok .decHdr := by rfl
theorem test_decode_decPay : decode 0x140000FE#32 = .ok (.decPay 254#8) := by rfl
theorem test_decode_decRxcrc : decode 0x15000000#32 = .ok .decRxcrc := by rfl
theorem test_decode_decCalc : decode 0x16000000#32 = .ok .decCalc := by rfl
theorem test_decode_decReset : decode 0x17000000#32 = .ok .decReset := by rfl
/-- The reserved operation codes of section 3's table. -/
theorem test_decode_reserved : decode 0x00000000#32 = .error .reservedOpc ∧ decode 0x04000000#32 = .error .reservedOpc ∧
    decode 0x18000000#32 = .error .reservedOpc ∧ decode 0xFFFFFFFF#32 = .error .reservedOpc := ⟨rfl, rfl, rfl, rfl⟩
/-- The illegal words of section 3's table with a known operation code. -/
theorem test_decode_illegal : decode 0x01FF0000#32 = .error .rsvNonzero ∧ decode 0x02000141#32 = .error .immHighNonzero ∧
    decode 0x03000001#32 = .error .immNonzero ∧ decode 0x1000010A#32 = .error .immHighNonzero ∧
    decode 0x10010000#32 = .error .rsvNonzero ∧ decode 0x11000001#32 = .error .immNonzero := ⟨rfl, rfl, rfl, rfl, rfl, rfl⟩
theorem test_encode_words : encode (.crcLoad 0x1234#16) = 0x01001234#32 ∧ encode (.decPay 3#8) = 0x14000003#32 ∧
    encode .decReset = 0x17000000#32 := ⟨rfl, rfl, rfl⟩
/-- The table word interface refuses bits beyond the word. -/
theorem test_decodeTableWord : decodeTableWord 32 0x140000FE = some (.decPay 254#8) ∧
    decodeTableWord 32 0x04000000 = none ∧ decodeTableWord 33 0x100000000 = none := ⟨rfl, rfl, rfl⟩

/-! ### The assembler (rules R78, R79, R86) -/

theorem test_assemble_upper : assembleLine "CRC.LOAD 0x1234 ; seed".toList = .ok (some (.instr (.crcLoad 0x1234#16))) := by
  rfl
theorem test_assemble_lower : assembleLine "dec.feed 10".toList = .ok (some (.instr (.decFeed 0x0A#8))) := by rfl
theorem test_assemble_range : assembleLine "DEC.PAY 256".toList = .error .operandOutOfRange := by rfl
theorem test_assemble_stream :
    assembleLine "DEC.STREAM 0x0A, 0x55".toList = .ok (some (.pseudo (.decStream [0x0A#8, 0x55#8]))) := by rfl
theorem test_disassemble : disassemble (.decFeed 0x0A#8) = "DEC.FEED 0x0A".toList := by rfl

/-! ### CRC arithmetic (95_test_vectors.md section 2) -/

theorem test_crcStep : crcStep 0xFFFF#16 0x00#8 = 0xE1F0#16 ∧ crcStep 0x1234#16 0x56#8 = 0x3C40#16 ∧
    crcStep 0x8000#16 0x00#8 = 0x9188#16 ∧ crcStep 0x0001#16 0x00#8 = 0x0100#16 := by decide +kernel
theorem test_crcStepTable : crcStepTable 0x1234#16 0x56#8 = 0x3C40#16 ∧ crcStepTable 0x31C3#16 0x00#8 = 0xE572#16 := by
  decide +kernel
/-- The check value of rule R109 with seed `0xFFFF`. -/
theorem test_calc_check :
    crcCalc [0x31#8, 0x32#8, 0x33#8, 0x34#8, 0x35#8, 0x36#8, 0x37#8, 0x38#8, 0x39#8] 0xFFFF#16 = 0x29B1#16 := by
  decide +kernel
theorem test_calc_control : crcCalc [0x10#8, 0x04#8, 0x0A#8, 0xFB#8, 0x00#8, 0x32#8] 0x0000#16 = 0xFE9B#16 := by
  decide +kernel
/-- The frame of section 1.1 with `FRAME_SEED = 0xFFFF`. -/
theorem test_frameBytes : frameBytes 0xFFFF#16 0x10#8 [0x0A#8, 0xFB#8, 0x00#8, 0x32#8] =
    [0x0A#8, 0x55#8, 0x10#8, 0x04#8, 0x0A#8, 0xFB#8, 0x00#8, 0x32#8, 0x8B#8, 0xF0#8] := by decide +kernel

/-! ### The CRC unit (section 4) -/

theorem test_crcLoad : resp sReset 0x0100FFFF = some 0x0000FFFF#32 ∧ after State.acc sReset 0x0100FFFF = some 0xFFFF#16 := by
  decide +kernel
theorem test_crcByte : resp { sReset with acc := 0x1234#16 } 0x02000056 = some 0x00003C40#32 ∧
    after State.acc { sReset with acc := 0x1234#16 } 0x02000056 = some 0x3C40#16 := by decide +kernel
/-- The hazard of section 8: no `CRC.LOAD` before it (rule R198). -/
theorem test_crcByte_noLoad : resp { sReset with acc := 0x31C3#16 } 0x02000041 = some 0x0000BD97#32 := by decide +kernel
theorem test_crcRead : resp { sReset with acc := 0x58E5#16 } 0x03000000 = some 0x000058E5#32 := by decide +kernel
theorem test_illegal_acc : resp { sReset with acc := 0x1234#16 } 0x02000141 = some 0x30000000#32 ∧
    after State.acc { sReset with acc := 0x1234#16 } 0x02000141 = some 0x1234#16 := by decide +kernel

/-! ### `DEC.FEED`, one row of section 5 each -/

theorem test_feed_F2_F3 : resp sReset 0x10000055 = some 0x00000000#32 ∧ resp sReset 0x1000000A = some 0x00000001#32 := by
  decide +kernel
theorem test_feed_F4_F5_F7 : resp sSync2 0x10000055 = some 0x00000012#32 ∧ resp sSync2 0x1000000A = some 0x00000001#32 ∧
    resp sSync2 0x100000FF = some 0x00000000#32 := by decide +kernel
theorem test_feed_F8 : after State.calcReg { sSync2 with cfg := tcF } 0x10000055 = some 0xFFFF#16 := by decide +kernel
theorem test_feed_F9 : resp sHdr0 0x10000010 = some 0x00000112#32 ∧ after State.calcReg sHdr0 0x10000010 = some 0x1231#16 ∧
    after State.hdrType sHdr0 0x10000010 = some 0x10#8 := by decide +kernel
theorem test_feed_F11 : resp (sHdr1 0x10#8 0x1231#16) 0x10000004 = some 0x00000013#32 ∧
    after State.calcReg (sHdr1 0x10#8 0x1231#16) 0x10000004 = some 0x43F7#16 := by decide +kernel
/-- `CALC` before this step and the next test's is `T[0x02]` and `T[0xEE]` of rule R101's table. -/
theorem test_feed_F12 : resp (sHdr1 0x02#8 0x2042#16) 0x10000000 = some 0x00000014#32 ∧
    after State.calcReg (sHdr1 0x02#8 0x2042#16) 0x10000000 = some 0x6662#16 := by decide +kernel
theorem test_feed_F13 : resp (sHdr1 0xEE#8 0x1CE0#16) 0x10000000 = some 0x00000076#32 ∧
    after State.calcReg (sHdr1 0xEE#8 0x1CE0#16) 0x10000000 = some 0x33BD#16 := by decide +kernel
theorem test_feed_F16_F17 : resp sPay0 0x1000000A = some 0x00000113#32 ∧ after State.calcReg sPay0 0x1000000A = some 0x2EED#16 ∧
    after (fun t => t.pay.read 1) { sPay0 with index := 1#8 } 0x10000055 = some (some 0x55#8) := by decide +kernel
theorem test_feed_F18 : resp sPay3 0x10000032 = some 0x00000014#32 ∧ after State.calcReg sPay3 0x10000032 = some 0xFE9B#16 ∧
    after (fun t => t.pay.read 3) sPay3 0x10000032 = some (some 0x32#8) := by decide +kernel
theorem test_feed_F19 : resp sLong 0x100000FE = some 0x00000014#32 ∧
    after (fun t => t.pay.read 254) sLong 0x100000FE = some (some 0xFE#8) := by decide +kernel
theorem test_feed_F20 : resp sCrc0 0x1000009B = some 0x00000114#32 := by decide +kernel
theorem test_feed_F21_F22 : resp sCrc1 0x100000FE = some 0x00000025#32 ∧ resp sCrc1 0x100000FF = some 0x000000B6#32 ∧
    after State.rxcrc sCrc1 0x100000FF = some 0xFF9B#16 := by decide +kernel
theorem test_feed_held_F24_F25_F26 : resp sLoaded 0x1000000A = some 0x10000025#32 ∧
    resp sBad 0x10000000 = some 0x100000B6#32 ∧ resp sUnk 0x10000000 = some 0x10000076#32 := by decide +kernel
theorem test_feed_F27 : resp sLoaded 0x1000010A = some 0x30000000#32 := by decide +kernel

/-! ### Acknowledge, read-outs and decoder reset: the rows of section 6 -/

/-- The responses in the five columns. -/
def row (w : Nat) : List (Option Word) := [sReset, sMid, sLoaded, sBad, sUnk].map fun s => resp s w

theorem test_decAck : row 0x11000000 =
    [some 0x20000000#32, some 0x20000213#32, some 0x00000000#32, some 0x00000000#32, some 0x00000000#32] := by decide +kernel
theorem test_decStatus : row 0x12000000 =
    [some 0x00000000#32, some 0x00000213#32, some 0x00000025#32, some 0x000000B6#32, some 0x00000076#32] := by decide +kernel
theorem test_decHdr : row 0x13000000 =
    [some 0x20000000#32, some 0x20000213#32, some 0x00000410#32, some 0x00000410#32, some 0x000000EE#32] := by decide +kernel
theorem test_decPay_0 : row 0x14000000 =
    [some 0x20000000#32, some 0x20000213#32, some 0x0000000A#32, some 0x0000000A#32, some 0x20000076#32] := by decide +kernel
theorem test_decPay_4 : row 0x14000004 =
    [some 0x20000000#32, some 0x20000213#32, some 0x20000025#32, some 0x200000B6#32, some 0x20000076#32] := by decide +kernel
theorem test_decRxcrc : row 0x15000000 =
    [some 0x20000000#32, some 0x20000213#32, some 0x0000FE9B#32, some 0x0000FE9B#32, some 0x20000076#32] := by decide +kernel
theorem test_decCalc : row 0x16000000 =
    [some 0x00000000#32, some 0x000076D8#32, some 0x0000FE9B#32, some 0x0000C9AB#32, some 0x000033BD#32] := by decide +kernel
theorem test_decReset : row 0x17000000 = List.replicate 5 (some 0x00000000#32) := by decide +kernel
/-- `DEC.RESET` keeps the payload cells and `ACC`, and gives `CALC` the seed (rules R34, R156). -/
theorem test_decReset_keeps : after State.pay { sMid with acc := 0x1234#16, cfg := tcF } 0x17000000 = some sMid.pay ∧
    after State.acc { sMid with acc := 0x1234#16, cfg := tcF } 0x17000000 = some 0x1234#16 ∧
    after State.calcReg { sMid with acc := 0x1234#16, cfg := tcF } 0x17000000 = some 0xFFFF#16 := by decide +kernel
/-- A hardware reset in LOADED (section 7). -/
theorem test_hardwareReset : next? (step (sLoaded.setInputs [.resetAndCommand 0x11000000#32])) = some sReset := by
  decide +kernel

/-! ### Witnesses: states and operands that meet the hypotheses of each obligation -/

/-- The invariant holds in a state of every phase, at both ends of the index range where it has one. -/
theorem inv_sync1 : sReset.Inv := by constructor <;> first | decide | (unfold State.written; decide)
theorem inv_sync2 : sSync2.Inv := by constructor <;> first | decide | (unfold State.written; decide)
theorem inv_hdr0 : sHdr0.Inv := by constructor <;> first | decide | (unfold State.written; decide)
theorem inv_hdr1 : (sHdr1 0x10#8 0x1231#16).Inv := by constructor <;> first | decide | (unfold State.written; decide)
theorem inv_hdr1_unknown : (sHdr1 0xEE#8 0x1CE0#16).Inv := by
  constructor <;> first | decide | (unfold State.written; decide)
theorem inv_pay0 : sPay0.Inv := by constructor <;> first | decide | (unfold State.written; decide)
theorem inv_mid : sMid.Inv := by constructor <;> first | decide | (unfold State.written; decide)
theorem inv_long : sLong.Inv := by constructor <;> first | decide +kernel | (unfold State.written; decide +kernel)
theorem inv_crc0 : sCrc0.Inv := by constructor <;> first | decide | (unfold State.written; decide)
theorem inv_crc1 : sCrc1.Inv := by constructor <;> first | decide | (unfold State.written; decide)
theorem inv_loaded : sLoaded.Inv := by constructor <;> first | decide | (unfold State.written; decide)
theorem inv_bad : sBad.Inv := by constructor <;> first | decide | (unfold State.written; decide)
theorem inv_unknown : sUnk.Inv := by constructor <;> first | decide | (unfold State.written; decide)

/-- EachOperationHasOneWord, at the ends of the operand ranges. -/
theorem witness_oneWord : decode 0x0100FFFF#32 = .ok (.crcLoad 0xFFFF#16) ∧ decode 0x100000FF#32 = .ok (.decFeed 0xFF#8) ∧
    decode 0x17000000#32 = .ok .decReset := ⟨rfl, rfl, rfl⟩

/-- AtMostOneRowMatches. -/
theorem witness_oneRow : (⟨.decPay, 0x14000000#32, 0xFFFFFF00#32⟩ : OpcodeRow) ∈ opcodeTable ∧
    OpcodeRow.accepts ⟨.decPay, 0x14000000#32, 0xFFFFFF00#32⟩ 0x140000FF#32 = true := by decide

/-- A state whose next input is the word `w`. -/
def given (s : State) (w : Word) : State := s.setInputs [.command w]

/-- IllegalWordsRespondIllegal: a word for each clause, each at the first value past the legal ones, given while held. -/
theorem witness_illegal (w : Word) (_ : w ∈ [0x18000000#32, 0x01010000#32, 0x02000100#32, 0x03000001#32]) :
    (given sLoaded w).inputs = .command w :: [] ∧ ∃ e, decode w = .error e := by
  refine ⟨rfl, ?_⟩
  rename_i h
  simp only [List.mem_cons, List.not_mem_nil, or_false] at h
  rcases h with rfl | rfl | rfl | rfl <;> exact ⟨_, rfl⟩
theorem witness_illegal_fields : (0x18#8 : BitVec 8) ∉ [0x01#8, 0x02#8, 0x03#8, 0x10#8, 0x11#8, 0x12#8, 0x13#8, 0x14#8, 0x15#8, 0x16#8, 0x17#8] ∧
    (0x01010000#32).extractLsb' 16 8 ≠ 0#8 ∧ ((0x02000100#32).extractLsb' 0 16).extractLsb' 8 8 ≠ 0#8 ∧
    (0x03000001#32).extractLsb' 0 16 ≠ 0#16 := by decide

/-- AssemblerChecksOperandRange: the last operand accepted and the first refused. -/
theorem witness_asmRange : asmInstr ⟨.decPay, some 255⟩ = some (.decPay 255#8) ∧ asmInstr ⟨.decPay, some 256⟩ = none ∧
    asmInstr ⟨.crcLoad, some 65535⟩ = some (.crcLoad 0xFFFF#16) ∧ asmInstr ⟨.crcLoad, some 65536⟩ = none ∧
    asmInstr ⟨.crcByte, some 256⟩ = none ∧ asmInstr ⟨.decFeed, some 256⟩ = none := by decide

/-- StepRunsDecodedCommand. -/
theorem witness_stepRuns : (given sMid 0x1000000A#32).inputs = .command 0x1000000A#32 :: [] ∧
    decode 0x1000000A#32 = .ok (.decFeed 0x0A#8) := ⟨rfl, rfl⟩

/-- HardwareResetWins, both forms of the input. -/
theorem witness_reset : (sLoaded.setInputs [.reset]).inputs = .reset :: [] ∧
    (sLoaded.setInputs [.resetAndCommand 0x11000000#32]).inputs = .resetAndCommand 0x11000000#32 :: [] := ⟨rfl, rfl⟩

/-- QueuedCommandsRunInOrder: three operations with two more inputs behind them. -/
theorem witness_queue :
    let is := [Instr.crcLoad 0x1234#16, .decFeed 0x0A#8, .decStatus]
    let rest := [HostInput.reset, .command 0x00000000#32]
    let s := sReset.setInputs (is.map (fun i => HostInput.command (encode i)) ++ rest)
    s.inputs = is.map (fun i => HostInput.command (encode i)) ++ rest ∧
      ∃ t, execAll is { s with inputs := rest } = .next t := ⟨rfl, _, rfl⟩

/-- ResponsesAndErrorCodes and ConfigNeverChanges: a word that gives each of the four response codes. -/
theorem witness_ok : ∃ t, step (given sReset 0x12000000#32) = .next t ∧ t.responses = [0x00000000#32] := ⟨_, rfl, rfl⟩
theorem witness_busy : ∃ t, step (given sLoaded 0x1000000A#32) = .next t ∧ t.responses = [0x10000025#32] := ⟨_, rfl, rfl⟩
theorem witness_invalid : ∃ t, step (given sMid 0x13000000#32) = .next t ∧ t.responses = [0x20000213#32] := ⟨_, rfl, rfl⟩
theorem witness_illegalWord : ∃ t, step (given sBad 0x18000000#32) = .next t ∧ t.responses = [0x30000000#32] :=
  ⟨_, rfl, rfl⟩

/-- OneByteChangeChangesCalc: bytes that differ in one bit. -/
theorem witness_oneByte : (0xFB#8 : Byte) ≠ 0xFA#8 := by decide

/-- CrcUnitOperations, third clause: both ends of the nonzero high bytes. -/
theorem witness_highByte : (0x01#8 : Byte) ≠ 0x00#8 ∧ (0xFF#8 : Byte) ≠ 0x00#8 := by decide

/-- FeedInSyncPhases: both phases, with the bytes of every case (rows F1 to F7). -/
theorem witness_sync : sReset.phase = .waitSync1 ∧ sSync2.phase = .waitSync2 ∧
    (∃ t, exec (.decFeed 0x0A#8) sReset = .next t ∧ t.phase = .waitSync2) ∧
    (∃ t, exec (.decFeed 0x0B#8) sReset = .next t ∧ t.phase = .waitSync1) ∧
    (∃ t, exec (.decFeed 0x55#8) sSync2 = .next t ∧ t.phase = .readHeader) ∧
    (∃ t, exec (.decFeed 0x0A#8) sSync2 = .next t ∧ t.phase = .waitSync2) ∧
    (∃ t, exec (.decFeed 0x54#8) sSync2 = .next t ∧ t.phase = .waitSync1) :=
  ⟨rfl, rfl, ⟨_, rfl, rfl⟩, ⟨_, rfl, rfl⟩, ⟨_, rfl, rfl⟩, ⟨_, rfl, rfl⟩, ⟨_, rfl, rfl⟩⟩

/-- FeedInReadHeader: header byte 0, and header byte 1 with an unknown type, no payload and the longest payload. -/
theorem witness_header : sHdr0.phase = .readHeader ∧ sHdr0.index = 0#8 ∧
    (sHdr1 0x10#8 0x1231#16).phase = .readHeader ∧ (sHdr1 0x10#8 0x1231#16).index ≠ 0#8 ∧
    typeSize tc 0xEE#8 = none ∧ typeSize tc 0x10#8 ≠ none ∧
    after State.phase (sHdr1 0xEE#8 0x1CE0#16) 0x100000FF = some .failure ∧
    after State.phase (sHdr1 0x10#8 0x1231#16) 0x10000000 = some .verifyCrc ∧
    after State.phase (sHdr1 0x10#8 0x1231#16) 0x100000FF = some .readPayload := by decide +kernel

/-- FeedInReadPayload: a middle byte, the last byte of a short payload, and the last cell. -/
theorem witness_payload : sMid.phase = .readPayload ∧ sMid.index.toNat < 255 ∧ sMid.index.toNat + 1 ≠ sMid.hdrLen.toNat ∧
    sPay3.phase = .readPayload ∧ sPay3.index.toNat + 1 = sPay3.hdrLen.toNat ∧
    sLong.phase = .readPayload ∧ sLong.index.toNat = 254 ∧ sLong.index.toNat + 1 = sLong.hdrLen.toNat := by decide

/-- FeedInVerifyCrc: both bytes, and for the second both results. -/
theorem witness_trailer : sCrc0.phase = .verifyCrc ∧ sCrc0.index = 0#8 ∧ sCrc1.phase = .verifyCrc ∧ sCrc1.index ≠ 0#8 ∧
    (0xFE#8 ++ sCrc1.rxcrc.extractLsb' 0 8 : Half) = sCrc1.calcReg ∧
    (0xFF#8 ++ sCrc1.rxcrc.extractLsb' 0 8 : Half) ≠ sCrc1.calcReg := by decide

/-- FeedWhileHeldIsBusy, AcknowledgeReleases, OnlyAckOrResetReleases, ReadoutsInvalidAfterAcknowledge: the held states,
and one that is not held. -/
theorem witness_held : sLoaded.phase = .loaded ∧ sBad.phase = .failure ∧ sUnk.phase = .failure ∧ sLoaded.held = true ∧
    sBad.held = true ∧ sUnk.held = true ∧ sMid.phase ≠ .loaded ∧ sMid.phase ≠ .failure := by decide
theorem witness_release : (∃ t, step (given sBad 0x11000000#32) = .next t ∧ t.held = false) ∧
    (∃ t, step (given sBad 0x16000000#32) = .next t ∧ t.held = true) ∧
    (∃ t, exec .decAck sUnk = .next t) := ⟨⟨_, rfl, rfl⟩, ⟨_, rfl, rfl⟩, ⟨_, rfl⟩⟩

/-- TC with other declared sizes for the same codes. -/
def tcSizes : Config := ⟨0x0000#16, [(0x02#8, 9#8), (0x10#8, 0#8), (0x04#8, 255#8)]⟩

/-- PayloadCountIsLengthField: fewer bytes than the length, exactly that many, a second header byte of a known type, and
another table with the same codes. -/
theorem witness_payloadCount : sPay0.phase = .readPayload ∧ sPay0.index = 0#8 ∧
    [0x0A#8, 0xFB#8, 0x00#8].length ≤ sPay0.hdrLen.toNat ∧ [0x0A#8, 0xFB#8, 0x00#8, 0x32#8].length = sPay0.hdrLen.toNat ∧
    (List.replicate 255 0x55#8).length = (255#8).toNat ∧
    (typeSize tc (sHdr1 0x10#8 0x1231#16).hdrType).isSome = true ∧
    tcSizes.frameSeed = tc.frameSeed ∧ (∀ code, (typeSize tcSizes code).isSome = (typeSize tc code).isSome) := by
  decide +kernel

/-- NoRestartInsideFrame: a sync byte in each section. -/
theorem witness_inside (s : State) (_ : s ∈ [sHdr0, sHdr1 0x10#8 0x1231#16, sPay0, sCrc0, sCrc1]) :
    s.phase.accumulating = true ∧ ∃ t, exec (.decFeed 0x0A#8) s = .next t := by
  rename_i h
  simp only [List.mem_cons, List.not_mem_nil, or_false] at h
  rcases h with rfl | rfl | rfl | rfl | rfl <;> exact ⟨rfl, _, rfl⟩

/-- OutcomeEntry: the step that enters each of the three outcomes. -/
theorem witness_outcome :
    ((given sCrc1 0x100000FE#32).Inv ∧ (given sCrc1 0x100000FE#32).held = false ∧
      ∃ t, step (given sCrc1 0x100000FE#32) = .next t ∧ t.held = true ∧ t.phase = .loaded) ∧
    (∃ t, step (given sCrc1 0x100000FF#32) = .next t ∧ t.held = true ∧ t.reason = .checksum) ∧
    (∃ t, step (given (sHdr1 0xEE#8 0x1CE0#16) 0x10000000#32) = .next t ∧ t.held = true ∧ t.reason = .unknownType) := by
  refine ⟨⟨?_, rfl, ?_⟩, ?_, ?_⟩
  · constructor <;> first | decide | (unfold State.written; decide)
  · exact ⟨_, rfl, by decide +kernel, by decide +kernel⟩
  · exact ⟨_, rfl, by decide +kernel, by decide +kernel⟩
  · exact ⟨_, rfl, by decide +kernel, by decide +kernel⟩

/-- PayloadReadout: the first and the last cell of the payload, the first past it, and cell 254. -/
theorem witness_payReadout : sLoaded.phase = .loaded ∧ (0#8).toNat < sLoaded.hdrLen.toNat ∧ (3#8).toNat < sLoaded.hdrLen.toNat ∧
    sLoaded.pay.read 3 = some 0x32#8 ∧ ¬ (4#8).toNat < sLoaded.hdrLen.toNat ∧ sBad.reason = .checksum ∧
    sBad.pay.read 1 = some 0xFA#8 ∧ sUnk.reason ≠ .checksum := by decide
theorem witness_payReadout_last : resp { sLong with phase := .loaded, index := 0#8, pay := sLong.pay ++ [(254, 0xFE#8)] }
    0x140000FE = some 0x000000FE#32 := by decide +kernel

/-- StopsOnMissingCells: the two states that no run reaches. -/
theorem witness_stops : sNoCell.phase = .readPayload ∧ sNoCell.index = 255#8 ∧ sUnwritten.phase = .loaded ∧
    (0#8).toNat < sUnwritten.hdrLen.toNat ∧ (3#8).toNat < sUnwritten.hdrLen.toNat ∧ sUnwritten.pay.read 3 = none := by decide

/-- RepeatingOperations: each of its three forms takes its first step. -/
theorem witness_repeat : (∃ t, exec (.decPay 3#8) sLoaded = .next t) ∧ (∃ t, exec (.decPay 4#8) sBad = .next t) ∧
    (∃ t, exec (.crcLoad 0xFFFF#16) sMid = .next t) ∧ (∃ t, exec .decReset sMid = .next t) ∧
    (∃ t, exec .decAck sLoaded = .next t) ∧ (∃ t, exec .decAck sReset = .next t) :=
  ⟨⟨_, rfl⟩, ⟨_, rfl⟩, ⟨_, rfl⟩, ⟨_, rfl⟩, ⟨_, rfl⟩, ⟨_, rfl⟩⟩

/-- ReadPacketReturnsFrame: both outcomes with a complete payload. -/
theorem witness_readPacket : sLoaded.Inv ∧ sLoaded.payloadComplete = true ∧ sBad.Inv ∧ sBad.payloadComplete = true :=
  ⟨inv_loaded, rfl, inv_bad, rfl⟩

/-- StalledFrameStays: a step with no input, and one with `DEC.STATUS`. -/
theorem witness_stalled : sMid.phase.accumulating = true ∧ sMid.inputs = [] ∧ (∃ t, step sMid = .next t) ∧
    (given sMid 0x12000000#32).phase.accumulating = true ∧ decode 0x12000000#32 = .ok .decStatus ∧
    (∃ t, step (given sMid 0x12000000#32) = .next t) := ⟨rfl, rfl, ⟨_, rfl⟩, rfl, rfl, ⟨_, rfl⟩⟩

/-- StepKeepsInvariant and StatusValuesThatOccur: the states of `inv_sync1` to `inv_unknown` above, one in each phase;
here one with an input that takes it to the next phase. -/
theorem witness_invStep : (given sPay3 0x10000032#32).Inv ∧ ∃ t, step (given sPay3 0x10000032#32) = .next t := by
  refine ⟨?_, _, rfl⟩
  constructor <;> first | decide | (unfold State.written; decide)

/-- StepKeepsRunningCrc: in the middle of a payload, at its last byte and while held. -/
theorem witness_runningCrc : sMid.Inv ∧ sMid.CrcInv ∧ sBad.CrcInv ∧ sUnk.CrcInv ∧ (given sPay3 0x10000032#32).CrcInv ∧
    ∃ t, step (given sPay3 0x10000032#32) = .next t := by
  refine ⟨inv_mid, ?_, ?_, ?_, ?_, _, rfl⟩ <;> exact fun _ => by decide +kernel

/-- NoRunStops: a state that a run reaches after its first byte. -/
theorem witness_reachable : ∃ t, Reachable t ∧ t.phase = .waitSync2 :=
  ⟨_, .step _ _ (.send _ [.command 0x1000000A#32] (.reset tc)) rfl, rfl⟩

/-- UnitsAreIndependent. -/
theorem witness_units : (Instr.crcByte 0x41#8).op ∈ [Op.crcLoad, .crcByte, .crcRead] ∧
    (Instr.decFeed 0x0A#8).op ∉ [Op.crcLoad, .crcByte, .crcRead] ∧
    (∃ t, execAll [.crcByte 0x41#8, .decFeed 0x0A#8] sMid = .next t) := ⟨by decide, by decide, _, rfl⟩

/-- StaleCellsAreInvisible: two states that differ in cells 2 to 4, of which two have been received. -/
theorem witness_stale : SameButStale (given sMid 0x10000000#32)
      { given sMid 0x10000000#32 with pay := [(0, 0x0A#8), (1, 0xFB#8), (2, 0x77#8), (4, 0x99#8)] } ∧
    ∃ t, step (given sMid 0x10000000#32) = .next t := by
  refine ⟨⟨by decide, ?_⟩, _, rfl⟩
  show ∀ i, i < 2 → _
  decide

/-- A decoder that scans again after a frame: what the released frame of P3 in section 9 leaves. -/
def sAcked : State := { sLoaded with phase := .waitSync1 }
theorem inv_acked : sAcked.Inv := by constructor <;> first | decide | (unfold State.written; decide)

/-- EarlierFramesDoNotMatter: a fresh decoder and one with the remains of a frame. -/
theorem witness_earlier : sAcked.phase = .waitSync1 ∧ sReset.phase = .waitSync1 ∧ sAcked.Inv ∧ sReset.Inv ∧
    sAcked.cfg = sReset.cfg ∧ sAcked.responses = sReset.responses ∧
    ∃ t, feedAll [0x0A#8, 0x55#8, 0x10#8] sAcked = .next t := ⟨rfl, rfl, inv_acked, inv_sync1, rfl, rfl, _, rfl⟩

/-- FrameRoundTrip, ResyncAfterNoise and OneCorruptedByteFailsFrame: no payload and the longest one; noise that ends in a
sync byte; a changed type byte and the first and last of the other changed bytes. -/
theorem witness_frame : sAcked.Inv ∧ sAcked.phase = .waitSync1 ∧ (typeSize sAcked.cfg 0x10#8).isSome = true ∧
    ([] : List Byte).length ≤ 255 ∧ (List.replicate 255 0x0A#8).length ≤ 255 := ⟨inv_acked, rfl, by decide, Nat.zero_le _, Nat.le_of_eq List.length_replicate⟩
theorem witness_noise : ¬ [0x0A#8, 0x55#8] <:+: ([0x00#8, 0x55#8, 0x0A#8] : List Byte) := by decide
theorem witness_corrupt : 2 < 6 + [0x40#8].length ∧ 4 < 6 + [0x40#8].length ∧ 6 < 6 + [0x40#8].length ∧
    (frameBytes 0x0000#16 0x04#8 [0x40#8])[2]? ≠ some 0x10#8 ∧ (frameBytes 0x0000#16 0x04#8 [0x40#8])[4]? ≠ some 0x41#8 ∧
    (frameBytes 0x0000#16 0x04#8 [0x40#8])[6]? ≠ some 0xA6#8 := by decide +kernel

/-- HeldWithinLongestFrame: right after a sync, with the fewest bytes that it asks for. -/
theorem witness_longest : sHdr0.Inv ∧ sHdr0.phase = .readHeader ∧ sHdr0.index = 0#8 ∧
    259 ≤ (List.replicate 259 0xFF#8 : List Byte).length := ⟨inv_hdr0, rfl, rfl, Nat.le_of_eq List.length_replicate.symm⟩

end Sys2Proof.Tests
end

section
/-! SUPPORT. Family 10_state.md: what one operation and one step can do to the decoder as a whole, and the statements
`ResetColumns` and `OnlyAckOrResetReleases`. -/

namespace Sys2Proof

/-! ### Which word decodes to an operation without operand -/

/-- A decoded operation comes from a row of rule R73 that accepts the word. -/
theorem row_of_decode_ok {w : Word} {i : Instr} (h : decode w = .ok i) :
    ∃ r ∈ opcodeTable, r.accepts w = true ∧ i = r.op.withOperand w := by
  unfold decode at h
  split at h
  · rename_i r hr
    cases h
    exact ⟨r, List.mem_of_find?_eq_some hr, List.find?_some (p := fun r => OpcodeRow.accepts r w) hr, rfl⟩
  · cases h

theorem op_withOperand (o : Op) (w : Word) : (o.withOperand w).op = o := by cases o <;> rfl

/-- The rows of the operations without operand compare all 32 bits with the word `{OPC, 0x00, 0x0000}`. -/
theorem opcodeTable_none_row : ∀ r ∈ opcodeTable, r.op.form = .none →
    r = ⟨r.op, Command.word ⟨r.op.opc, 0#8, 0#16⟩, 0xFFFFFFFF#32⟩ := by decide

/-- The word of a decoded operation without operand is `{OPC, 0x00, 0x0000}` and no other (rules R72, R73). -/
theorem word_of_decode_none {w : Word} {i : Instr} (h : decode w = .ok i) (hform : i.op.form = .none) :
    w = Command.word ⟨i.op.opc, 0#8, 0#16⟩ := by
  obtain ⟨r, hmem, hacc, rfl⟩ := row_of_decode_ok h
  rw [op_withOperand] at hform ⊢
  rw [opcodeTable_none_row r hmem hform] at hacc
  exact (accepts_none _ _ _).1 hacc

namespace Machine

/-! ### The decoder part of a state under the updates that leave it alone -/

@[simp] theorem State.decoder_respond (s : State) (rc : RespCode) (d : Half) : (s.respond rc d).decoder = s.decoder := rfl
@[simp] theorem State.decoder_setInputs (s : State) (q : List HostInput) : (s.setInputs q).decoder = s.decoder := rfl
@[simp] theorem State.decoder_setAcc (s : State) (v : Half) : (s.setAcc v).decoder = s.decoder := rfl

theorem State.held_eq_of_decoder_eq {s t : State} (h : t.decoder = s.decoder) : t.held = s.held :=
  congrArg (fun d : Decoder => d.phase.held) h

/-! ### The read-outs with a guard only respond -/

theorem execDecHdr_responds {s t : State} (h : execDecHdr s = .next t) : ∃ rc d, t = s.respond rc d := by
  unfold execDecHdr at h
  split at h
  · cases h; exact ⟨_, _, rfl⟩
  · cases h; exact ⟨_, _, rfl⟩

theorem execDecRxcrc_responds {s t : State} (h : execDecRxcrc s = .next t) : ∃ rc d, t = s.respond rc d := by
  unfold execDecRxcrc at h
  split at h
  · cases h; exact ⟨_, _, rfl⟩
  · cases h; exact ⟨_, _, rfl⟩

theorem execDecPay_responds {k : Byte} {s t : State} (h : execDecPay k s = .next t) : ∃ rc d, t = s.respond rc d := by
  obtain ⟨-, -, -, b, -, rfl⟩ | ⟨-, rfl⟩ := execDecPay_cases k s t h
  · exact ⟨_, _, rfl⟩
  · exact ⟨_, _, rfl⟩

/-! ### The two operations that release -/

/-- Everything `DEC.ACK` can do (rule R150). -/
theorem execDecAck_cases {s t : State} (h : execDecAck s = .next t) :
    (s.held = true ∧ t = s.release.respondStatus .ok) ∨ (s.held = false ∧ t = s.respondStatus .invalid) := by
  unfold execDecAck at h
  split at h
  · rename_i hheld
    cases h
    exact .inl ⟨hheld, rfl⟩
  · rename_i hheld
    cases h
    exact .inr ⟨Bool.eq_false_of_not_eq_true hheld, rfl⟩

/-- `DEC.RESET` in every state (rule R156): its response is `OK` with the `STATUS` of the reset decoder, 0. -/
theorem exec_decReset (s : State) : exec .decReset s = .next (s.resetDecoder.respond .ok 0#16) := by
  show Host.Outcome.next (s.resetDecoder.respond .ok s.resetDecoder.status) = _
  rw [State.status_resetDecoder]

/-! ### What an operation and a step can do to the decoder -/

/-- An operation leaves the whole decoder alone, or it is a `DEC.FEED` that was not held off, a `DEC.ACK` that released,
or `DEC.RESET`. -/
theorem exec_decoder_cases {i : Instr} {s t : State} (h : exec i s = .next t) :
    t.decoder = s.decoder ∨
    (s.held = false ∧ ∃ b, i = .decFeed b) ∨
    (s.held = true ∧ i = .decAck ∧ t = s.release.respondStatus .ok) ∨
    (i = .decReset ∧ t = s.resetDecoder.respond .ok 0#16) := by
  cases i with
  | crcLoad seed => cases h; exact .inl (by simp)
  | crcByte b => cases h; exact .inl (by simp)
  | crcRead => cases h; exact .inl (s.decoder_respond _ _)
  | decFeed b =>
    cases hheld : s.held with
    | true =>
      have hbusy : exec (.decFeed b) s = .next (s.respondStatus .busy) := if_pos hheld
      cases hbusy.symm.trans h
      exact .inl (s.decoder_respond _ _)
    | false => exact .inr (.inl ⟨rfl, b, rfl⟩)
  | decAck =>
    obtain ⟨hheld, ht⟩ | ⟨-, rfl⟩ := execDecAck_cases h
    · exact .inr (.inr (.inl ⟨hheld, rfl, ht⟩))
    · exact .inl (s.decoder_respond _ _)
  | decStatus => cases h; exact .inl (s.decoder_respond _ _)
  | decHdr => obtain ⟨rc, d, rfl⟩ := execDecHdr_responds h; exact .inl (s.decoder_respond rc d)
  | decPay k => obtain ⟨rc, d, rfl⟩ := execDecPay_responds h; exact .inl (s.decoder_respond rc d)
  | decRxcrc => obtain ⟨rc, d, rfl⟩ := execDecRxcrc_responds h; exact .inl (s.decoder_respond rc d)
  | decCalc => cases h; exact .inl (s.decoder_respond _ _)
  | decReset =>
    rw [exec_decReset] at h
    cases h
    exact .inr (.inr (.inr ⟨rfl, rfl⟩))

theorem held_iff_phase (s : State) : s.held = true ↔ s.phase = .loaded ∨ s.phase = .failure := by
  rw [State.held_eq]
  cases s.phase <;> decide

/-- From a held state an operation either keeps the whole decoder or is one of the two that release. -/
theorem exec_of_held {i : Instr} {s t : State} (hheld : s.held = true) (h : exec i s = .next t) :
    t.decoder = s.decoder ∨ (t.held = false ∧ (i = .decAck ∨ i = .decReset)) := by
  obtain hkeep | ⟨hfree, -⟩ | ⟨-, rfl, rfl⟩ | ⟨rfl, rfl⟩ := exec_decoder_cases h
  · exact .inl hkeep
  · rw [hheld] at hfree; cases hfree
  · exact .inr ⟨rfl, .inl rfl⟩
  · exact .inr ⟨rfl, .inr rfl⟩

/-- From a held state a step either keeps the whole decoder or its input was `DEC.ACK`, `DEC.RESET` or a hardware
reset (rule R31). -/
theorem step_of_held {s t : State} (hheld : s.held = true) (h : step s = .next t) :
    t.decoder = s.decoder ∨
    (t.held = false ∧ ∃ rest, s.inputs = .command 0x11000000#32 :: rest ∨ s.inputs = .command 0x17000000#32 :: rest ∨
      s.inputs = .reset :: rest ∨ ∃ w, s.inputs = .resetAndCommand w :: rest) := by
  obtain ⟨-, rfl⟩ | ⟨w, rest, i, hin, hdec, hexec⟩ | ⟨w, rest, e, -, -, rfl⟩ | ⟨x, rest, hin, hx, rfl⟩ :=
    step_cases s t h
  · exact .inl rfl
  · obtain hkeep | ⟨hfree, rfl | rfl⟩ := exec_of_held (s := s.setInputs rest) hheld hexec
    · exact .inl (hkeep.trans (s.decoder_setInputs rest))
    · have hw : w = 0x11000000#32 := word_of_decode_none hdec rfl
      exact .inr ⟨hfree, rest, .inl (hw ▸ hin)⟩
    · have hw : w = 0x17000000#32 := word_of_decode_none hdec rfl
      exact .inr ⟨hfree, rest, .inr (.inl (hw ▸ hin))⟩
  · exact .inl (by simp)
  · obtain rfl | ⟨w, rfl⟩ := hx
    · exact .inr ⟨rfl, rest, .inr (.inr (.inl hin))⟩
    · exact .inr ⟨rfl, rest, .inr (.inr (.inr ⟨w, hin⟩))⟩

/-! ### The statements -/

/-- Settles O34: a step from a held state keeps the decoder, and so keeps it held, or it takes a releasing input. -/
theorem onlyAckOrResetReleases : Obligations.OnlyAckOrResetReleases := by
  unfold Obligations.OnlyAckOrResetReleases
  refine ⟨held_iff_phase, fun s t hheld h => ?_⟩
  exact (step_of_held hheld h).imp_left fun hkeep => ⟨(State.held_eq_of_decoder_eq hkeep).trans hheld, hkeep⟩

/-- Settles O11: the first column is the state after a hardware reset, the second is what `DEC.RESET` leaves in every
state. -/
theorem resetColumns : Obligations.ResetColumns := by
  unfold Obligations.ResetColumns
  refine ⟨fun cfg => ?_, rfl, fun s => ?_⟩
  · exact ⟨rfl, rfl, rfl, rfl, rfl, rfl, rfl, Memory.read_nil, rfl, rfl, State.status_resetWith cfg⟩
  · rw [exec_decReset, State.respond, State.respWord_ok_zero]
    rfl

end Machine
end Sys2Proof
end

section
/-! SUPPORT. Family 30_encoding.md: which words the decoder rejects, in terms of the fields of a word, and the statements
`IllegalWordsRespondIllegal` and `WireFrameLayout`. -/

namespace Sys2Proof

/-! ### A row of the opcode map read on the fields of a word -/

theorem commandOf_word (w : Word) : (commandOf w).word = w := (word_split_fields w).symm

theorem Command.word_inj {c d : Command} : c.word = d.word ↔ c = d := by
  refine ⟨fun h => ?_, congrArg Command.word⟩
  have hfields (e : Command) : commandOf e.word = e := by
    obtain ⟨hopc, hrsv, himm⟩ := word_fields e.opc e.rsv e.imm
    rw [commandOf, opcField, rsvField, immField, hopc, hrsv, himm]
  rw [← hfields c, h, hfields d]

theorem Command.word_and (c d : Command) :
    c.word &&& d.word = Command.word ⟨c.opc &&& d.opc, c.rsv &&& d.rsv, c.imm &&& d.imm⟩ :=
  BitVec.and_append.trans (congrArg (· ++ (c.imm &&& d.imm)) BitVec.and_append)

/-- The bits of `IMM` that an operand form does not use (rule R72). -/
def OperandForm.unusedMask : OperandForm → Half
  | .imm16 => 0x0000#16
  | .imm8 => 0xFF00#16
  | .none => 0xFFFF#16

theorem and_highMask_eq_zero_iff (imm : Half) : imm &&& 0xFF00#16 = 0#16 ↔ imm.extractLsb' 8 8 = 0#8 := by
  have hsplit : imm = imm.extractLsb' 8 8 ++ imm.extractLsb' 0 8 :=
    (BitVec.extractLsb'_append_extractLsb' (w := 8) (len := 8)).symm
  have hmask : imm &&& 0xFF00#16 = imm.extractLsb' 8 8 ++ 0#8 := by
    conv_lhs => rw [hsplit, show 0xFF00#16 = BitVec.allOnes 8 ++ 0#8 from by decide, BitVec.and_append]
    rw [BitVec.and_allOnes, BitVec.and_zero]
  rw [hmask]
  exact BitVec.append_left_inj (s₂ := 0#8) 0#8

theorem OperandForm.unusedZero_iff_and (f : OperandForm) (imm : Half) :
    f.unusedZero imm = true ↔ imm &&& f.unusedMask = 0#16 := by
  cases f with
  | imm16 => exact iff_of_true rfl BitVec.and_zero
  | imm8 => exact beq_iff_eq.trans (and_highMask_eq_zero_iff imm).symm
  | none => exact beq_iff_eq.trans (by rw [show unusedMask .none = BitVec.allOnes 16 from rfl, BitVec.and_allOnes])

/-- The row of rule R73's table for an operation: `OPC`, `RSV` and the unused part of `IMM` are compared. -/
def Op.row (o : Op) : OpcodeRow :=
  ⟨o, Command.word ⟨o.opc, 0#8, 0#16⟩, Command.word ⟨BitVec.allOnes 8, BitVec.allOnes 8, o.form.unusedMask⟩⟩

/-- The printed table is the list of the operations' rows. -/
theorem opcodeTable_eq_rows : opcodeTable = Op.all.map Op.row := by decide

theorem Op.mem_all (o : Op) : o ∈ Op.all := by cases o <;> decide

theorem Op.row_accepts_iff (o : Op) (w : Word) :
    o.row.accepts w = true ↔
      o.opc = opcField w ∧ rsvField w = 0#8 ∧ o.form.unusedZero (immField w) = true := by
  have hfields : o.row.accepts w = true ↔
      (commandOf w).word &&& Command.word ⟨BitVec.allOnes 8, BitVec.allOnes 8, o.form.unusedMask⟩ =
        Command.word ⟨o.opc, 0#8, 0#16⟩ := by
    rw [commandOf_word]; exact beq_iff_eq
  rw [hfields, Command.word_and, Command.word_inj, Command.mk.injEq, BitVec.and_allOnes, BitVec.and_allOnes,
    OperandForm.unusedZero_iff_and, eq_comm (a := o.opc)]
  rfl

/-! ### Which words the decoder rejects -/

theorem decode_error_iff (w : Word) : (∃ e, decode w = .error e) ↔ ∀ o : Op, ¬ o.row.accepts w = true := by
  have hfind : (∃ e, decode w = .error e) ↔ opcodeTable.find? (fun r => r.accepts w) = none := by
    unfold decode
    cases opcodeTable.find? fun r => r.accepts w with
    | none => exact iff_of_true ⟨_, rfl⟩ rfl
    | some r => exact iff_of_false (fun ⟨_, h⟩ => nomatch h) (Option.some_ne_none r)
  rw [hfind, List.find?_eq_none, opcodeTable_eq_rows, List.forall_mem_map]
  exact forall_congr' fun o => forall_prop_of_true o.mem_all

theorem mem_opcs_iff (c : BitVec 8) : c ∈ Op.all.map Op.opc ↔ ∃ o : Op, o.opc = c := by
  simp [Op.mem_all]

theorem Op.ofOpc_opc (o : Op) : Op.ofOpc o.opc = some o := by cases o <;> rfl

theorem Op.opc_inj {o p : Op} : o.opc = p.opc ↔ o = p := by
  refine ⟨fun h => ?_, congrArg Op.opc⟩
  rw [← Option.some_inj, ← ofOpc_opc o, h, ofOpc_opc p]

theorem Op.opc_mem_imm8_iff (o : Op) : o.opc ∈ [0x02#8, 0x10#8, 0x14#8] ↔ o.form = .imm8 := by
  cases o <;> decide

theorem Op.opc_mem_none_iff (o : Op) :
    o.opc ∈ [0x03#8, 0x11#8, 0x12#8, 0x13#8, 0x15#8, 0x16#8, 0x17#8] ↔ o.form = .none := by
  cases o <;> decide

theorem OperandForm.not_unusedZero_iff (f : OperandForm) (imm : Half) :
    ¬ f.unusedZero imm = true ↔ (f = .imm8 ∧ imm.extractLsb' 8 8 ≠ 0#8) ∨ (f = .none ∧ imm ≠ 0#16) := by
  cases f <;> simp [unusedZero]

/-- Rule R84: the words that no row accepts, by the clause that each breaks. -/
theorem no_row_accepts_iff (w : Word) :
    (∀ o : Op, ¬ o.row.accepts w = true) ↔
      opcField w ∉ Op.all.map Op.opc ∨ rsvField w ≠ 0#8 ∨
      (opcField w ∈ [0x02#8, 0x10#8, 0x14#8] ∧ (immField w).extractLsb' 8 8 ≠ 0#8) ∨
      (opcField w ∈ [0x03#8, 0x11#8, 0x12#8, 0x13#8, 0x15#8, 0x16#8, 0x17#8] ∧ immField w ≠ 0#16) := by
  simp only [Op.row_accepts_iff, mem_opcs_iff]
  by_cases hop : ∃ o : Op, o.opc = opcField w
  · obtain ⟨o, ho⟩ := hop
    rw [← ho, Op.opc_mem_imm8_iff, Op.opc_mem_none_iff, ← OperandForm.not_unusedZero_iff]
    simp only [Op.opc_inj, not_and, forall_eq, exists_eq, not_true_eq_false, false_or]
    exact imp_iff_not_or
  · exact iff_of_true (fun o h => hop ⟨o, h.1⟩) (.inl hop)

namespace Machine

/-- A word that does not decode gets the `ILLEGAL` response with `DATA = 0x0000`, in every state. -/
theorem runCommand_of_error {w : Word} (h : ∃ e, decode w = .error e) (s : State) :
    runCommand w s = .next { s with responses := 0x30000000#32 :: s.responses } := by
  obtain ⟨e, he⟩ := h
  rw [runCommand, he, ← State.respWord_illegal_zero]
  rfl

/-- Settles O5: a word breaks a clause of rule R84 exactly when no row of the opcode map accepts it. -/
theorem illegalWordsRespondIllegal : Obligations.IllegalWordsRespondIllegal := by
  unfold Obligations.IllegalWordsRespondIllegal
  intro w opc rsv imm malformed
  have hiff : malformed ↔ ∃ e, decode w = .error e :=
    (no_row_accepts_iff w).symm.trans (decode_error_iff w).symm
  exact ⟨hiff, fun s hbad => runCommand_of_error (hiff.1 hbad) s⟩

/-- Settles O50: it is the definition of `frameBytes` with its constants, its header and its CRC written out. -/
theorem wireFrameLayout : Obligations.WireFrameLayout := by
  unfold Obligations.WireFrameLayout
  intro seed dataType payload header crc
  show [sync1, sync2] ++ headerBytes dataType payload ++ payload ++ [lowByte crc, highByte crc] = _
  rfl

end Machine
end Sys2Proof
end

section
/-! SUPPORT. Family 40_crc16.md: which word decodes to which operation, read on the bytes of the word, `calc` as a left
fold, the meanings of the CRC unit as updates of `ACC`, and the statements `CalcIsLeftFold` and `CrcUnitOperations`. -/

namespace Sys2Proof

/-! ### A word that a row accepts decodes to the row's operation -/

/-- Rows with different operation codes accept no common word, so the row found is the row of `o` (rule R74). -/
theorem decode_of_row_accepts {o : Op} {w : Word} (h : o.row.accepts w = true) : decode w = .ok (o.withOperand w) := by
  cases hdec : decode w with
  | error e => exact absurd h ((decode_error_iff w).1 ⟨e, hdec⟩ o)
  | ok i =>
    obtain ⟨r, hmem, hacc, rfl⟩ := row_of_decode_ok hdec
    rw [opcodeTable_eq_rows] at hmem
    obtain ⟨p, -, rfl⟩ := List.mem_map.1 hmem
    have hopc : p.opc = o.opc := ((p.row_accepts_iff w).1 hacc).1.trans ((o.row_accepts_iff w).1 h).1.symm
    cases Op.opc_inj.1 hopc
    rfl

/-! ### The words of the operand forms imm16 and imm8 -/

theorem decode_imm16 {o : Op} (hform : o.form = .imm16) (imm : Half) :
    decode (o.opc ++ 0#8 ++ imm) = .ok (o.withOperand (o.opc ++ 0#8 ++ imm)) := by
  obtain ⟨hopc, hrsv, -⟩ := word_fields o.opc 0#8 imm
  exact decode_of_row_accepts ((o.row_accepts_iff _).2 ⟨hopc.symm, hrsv, by rw [hform]; rfl⟩)

/-- The four bytes of a word as its three fields (rule R71). -/
theorem word_bytes (opc rsv hi lo : BitVec 8) :
    (opc ++ rsv ++ hi ++ lo : Word) = Command.word ⟨opc, rsv, hi ++ lo⟩ :=
  BitVec.append_assoc

/-- An imm8 row accepts a word with its `OPC` and `RSV` exactly when `IMM[15:8]` is zero (rule R72). -/
theorem row_accepts_imm8_iff {o : Op} (hform : o.form = .imm8) (hi lo : BitVec 8) :
    o.row.accepts (o.opc ++ 0#8 ++ hi ++ lo) = true ↔ hi = 0#8 := by
  obtain ⟨hopc, hrsv, himm⟩ := word_fields o.opc 0#8 (hi ++ lo)
  have hhigh : (hi ++ lo : Half).extractLsb' 8 8 = hi := BitVec.extractLsb'_append_eq_left
  rw [word_bytes, Op.row_accepts_iff, opcField, rsvField, immField, hopc, hrsv, himm, hform,
    OperandForm.unusedZero, hhigh]
  simp

theorem decode_imm8 {o : Op} (hform : o.form = .imm8) (b : Byte) :
    decode (o.opc ++ 0#8 ++ 0#8 ++ b) = .ok (o.withOperand (o.opc ++ 0#8 ++ 0#8 ++ b)) :=
  decode_of_row_accepts ((row_accepts_imm8_iff hform 0#8 b).2 rfl)

/-- An imm8 word with `IMM[15:8] ≠ 0` is illegal (rules R72, R84): the only row with its `OPC` does not accept it. -/
theorem decode_imm8_error {o : Op} (hform : o.form = .imm8) {hi : BitVec 8} (hhi : hi ≠ 0#8) (lo : BitVec 8) :
    ∃ e, decode (o.opc ++ 0#8 ++ hi ++ lo) = .error e := by
  refine (decode_error_iff _).2 fun p hacc => hhi ?_
  have hopc : p.opc = o.opc := by
    rw [((p.row_accepts_iff _).1 hacc).1, word_bytes]
    exact (word_fields o.opc 0#8 (hi ++ lo)).1
  cases Op.opc_inj.1 hopc
  exact (row_accepts_imm8_iff hform hi lo).1 hacc

theorem decode_crcLoad (seed : Half) : decode (0x01#8 ++ 0x00#8 ++ seed) = .ok (.crcLoad seed) :=
  (decode_imm16 (o := .crcLoad) rfl seed).trans
    (congrArg (Except.ok ∘ Instr.crcLoad) BitVec.extractLsb'_append_eq_right)

theorem decode_crcByte (b : Byte) : decode (0x02#8 ++ 0x00#8 ++ 0x00#8 ++ b) = .ok (.crcByte b) :=
  (decode_imm8 (o := .crcByte) rfl b).trans
    (congrArg (Except.ok ∘ Instr.crcByte) BitVec.extractLsb'_append_eq_right)

theorem decode_crcRead : decode 0x03000000#32 = .ok .crcRead :=
  decode_of_row_accepts (o := .crcRead) (by decide)

namespace Machine

/-! ### `calc` -/

theorem crcCalc_eq_foldl (bytes : List Byte) (seed : Half) : crcCalc bytes seed = bytes.foldl crcStep seed := by
  induction bytes generalizing seed with
  | nil => rfl
  | cons b rest ih => exact ih (crcStep seed b)

/-- The worked example of rule R102: the bytes of "123456789" from the seed 0. -/
theorem crcCalc_checkString :
    crcCalc [0x31#8, 0x32#8, 0x33#8, 0x34#8, 0x35#8, 0x36#8, 0x37#8, 0x38#8, 0x39#8] 0x0000#16 = 0x31C3#16 := by
  decide +kernel

/-! ### The CRC unit's operations: `ACC` takes its new value and is given as the response's data -/

theorem exec_crcLoad (seed : Half) (s : State) : exec (.crcLoad seed) s = .next ((s.setAcc seed).respond .ok seed) := rfl

theorem exec_crcByte (b : Byte) (s : State) :
    exec (.crcByte b) s = .next ((s.setAcc (crcStep s.acc b)).respond .ok (crcStep s.acc b)) := rfl

theorem exec_crcRead (s : State) : exec .crcRead s = .next (s.respond .ok s.acc) := rfl

/-! ### The statements -/

/-- Settles O17: the two equations are the definition's, the fold is an induction over the bytes, and the worked example
runs. -/
theorem calcIsLeftFold : Obligations.CalcIsLeftFold := by
  unfold Obligations.CalcIsLeftFold
  exact ⟨fun _ => rfl, fun _ _ _ => rfl, crcCalc_eq_foldl, crcCalc_checkString⟩

/-- Settles O21: each operation's word decodes to it, its meaning is an update of `ACC` with its response, and a
`CRC.BYTE` word with a nonzero high byte does not decode. -/
theorem crcUnitOperations : Obligations.CrcUnitOperations := by
  unfold Obligations.CrcUnitOperations
  refine ⟨fun s seed => ⟨decode_crcLoad seed, exec_crcLoad seed s⟩,
    fun s b => ⟨decode_crcByte b, exec_crcByte b s⟩,
    fun s hi b hhi => ?_,
    fun s => ⟨decode_crcRead, exec_crcRead s⟩⟩
  exact runCommand_of_error (decode_imm8_error (o := .crcByte) rfl hhi b) s

end Machine
end Sys2Proof
end

section
/-! SUPPORT. Family 41_frame_decoder.md: `DEC.FEED` phase by phase. A byte that the decoder takes is answered `OK` with the
`STATUS` of the state its arm leaves, no arm responds by itself, and so the statements about `DEC.FEED` are statements
about the arms. -/

namespace Sys2Proof.Machine

/-! ### The arm that each phase selects (rule R120) -/

theorem consumeByte_waitSync1 {s : State} (hp : s.phase = .waitSync1) (b : Byte) :
    consumeByte b s = .next (stepSync1 b s) := by rw [consumeByte, hp]

theorem consumeByte_waitSync2 {s : State} (hp : s.phase = .waitSync2) (b : Byte) :
    consumeByte b s = .next (stepSync2 b s) := by rw [consumeByte, hp]

theorem consumeByte_header0 {s : State} (hp : s.phase = .readHeader) (hi : s.index = 0#8) (b : Byte) :
    consumeByte b s = .next (stepHdr0 b s) := by
  rw [consumeByte, hp]; exact if_pos hi

theorem consumeByte_header1 {s : State} (hp : s.phase = .readHeader) (hi : s.index ≠ 0#8) (b : Byte) :
    consumeByte b s = .next (stepHdr1 b s) := by
  rw [consumeByte, hp]; exact if_neg hi

theorem consumeByte_readPayload {s : State} (hp : s.phase = .readPayload) (b : Byte) :
    consumeByte b s = stepPayload b s := by rw [consumeByte, hp]

theorem consumeByte_verifyCrc {s : State} (hp : s.phase = .verifyCrc) (b : Byte) :
    consumeByte b s = .next (stepCrc b s) := by rw [consumeByte, hp]

/-! ### No arm gives a response of its own -/

theorem stepSync1_responses (b : Byte) (s : State) : (stepSync1 b s).responses = s.responses := by
  unfold stepSync1
  split <;> rfl

theorem stepSync2_responses (b : Byte) (s : State) : (stepSync2 b s).responses = s.responses := by
  unfold stepSync2
  split
  · rfl
  · split <;> rfl

theorem stepHdr1_responses (b : Byte) (s : State) : (stepHdr1 b s).responses = s.responses := by
  unfold stepHdr1
  dsimp only
  split
  · rfl
  · split <;> rfl

theorem stepPayload_responses {b : Byte} {s t : State} (h : stepPayload b s = .next t) :
    t.responses = s.responses := by
  obtain ⟨-, rfl⟩ := (stepPayload_next_iff b s t).1 h
  split <;> rfl

theorem stepCrc_responses (b : Byte) (s : State) : (stepCrc b s).responses = s.responses := by
  unfold stepCrc
  split
  · rfl
  · dsimp only
    split <;> rfl

theorem consumeByte_responses {b : Byte} {s t : State} (h : consumeByte b s = .next t) :
    t.responses = s.responses := by
  cases hp : s.phase with
  | waitSync1 => rw [consumeByte_waitSync1 hp] at h; cases h; exact stepSync1_responses b s
  | waitSync2 => rw [consumeByte_waitSync2 hp] at h; cases h; exact stepSync2_responses b s
  | readHeader =>
    by_cases hi : s.index = 0#8
    · rw [consumeByte_header0 hp hi] at h; cases h; rfl
    · rw [consumeByte_header1 hp hi] at h; cases h; exact stepHdr1_responses b s
  | readPayload => rw [consumeByte_readPayload hp] at h; exact stepPayload_responses h
  | verifyCrc => rw [consumeByte_verifyCrc hp] at h; cases h; exact stepCrc_responses b s
  | loaded => rw [consumeByte, hp] at h; cases h; rfl
  | failure => rw [consumeByte, hp] at h; cases h; rfl

/-! ### `DEC.FEED` through its arms -/

/-- A decoder that is not held takes the byte and answers `OK` with the new `STATUS` (rule R120). -/
theorem exec_decFeed_of_consumeByte {b : Byte} {s t : State} (hfree : s.phase.held = false)
    (hc : consumeByte b s = .next t) : exec (.decFeed b) s = .next (t.respondStatus .ok) := by
  have hnot : ¬ s.held = true := Bool.eq_false_iff.1 hfree
  exact (if_neg hnot).trans (by rw [hc]; rfl)

/-- The same with the response word written out. The arm's result `t` is given as `u`, which names the fields that it
changes. -/
theorem exec_decFeed_ok {b : Byte} {s t u : State} (hfree : s.phase.held = false)
    (hc : consumeByte b s = .next t) (htu : t = u) :
    exec (.decFeed b) s = .next { u with responses := (0x0#4 ++ 0x000#12 ++ u.status) :: s.responses } := by
  subst htu
  rw [exec_decFeed_of_consumeByte hfree hc, ← consumeByte_responses hc]
  rfl

/-- A held decoder answers `BUSY` with its `STATUS` (rule R131). -/
theorem exec_decFeed_of_held {s : State} (hheld : s.held = true) (b : Byte) :
    exec (.decFeed b) s = .next (s.respondStatus .busy) := if_pos hheld

/-! ### The arms in the terms of the rules -/

theorem State.setPhase_self {s : State} {p : Phase} (hp : s.phase = p) : s.setPhase p = s := by
  subst hp; rfl

/-- In WAIT_SYNC1 a byte decides about the phase alone (rule R121). -/
theorem stepSync1_of_waitSync1 {s : State} (hp : s.phase = .waitSync1) (b : Byte) :
    stepSync1 b s = s.setPhase (if b = sync1 then .waitSync2 else .waitSync1) := by
  by_cases hb : b = sync1
  · rw [hb, stepSync1_sync, if_pos rfl]
  · rw [stepSync1_other b s hb, if_neg hb, State.setPhase_self hp]

/-- The 8-bit comparison of rule R127 does not wrap for the index of a cell that exists. -/
theorem index_succ_eq_iff {i n : Byte} (hi : i.toNat < 255) : i + 1#8 = n ↔ i.toNat + 1 = n.toNat := by
  bv_omega

/-! ### The statements -/

/-- Settles O24: each sync phase has its own arm, which compares the byte with the sync bytes. -/
theorem feedInSyncPhases : Obligations.FeedInSyncPhases := by
  unfold Obligations.FeedInSyncPhases
  refine ⟨fun s b hp => ?_, fun s b hp => ?_⟩
  · exact exec_decFeed_ok (congrArg Phase.held hp) (consumeByte_waitSync1 hp b) (stepSync1_of_waitSync1 hp b)
  · refine exec_decFeed_ok (congrArg Phase.held hp) (consumeByte_waitSync2 hp b) ?_
    split
    next h2 => rw [h2]; exact stepSync2_sync s
    next h2 =>
      split
      next h1 => rw [h1]; exact stepSync2_again s
      next h1 => exact stepSync2_other b s h2 h1

/-- Settles O25: `INDEX` selects the arm, and the second arm looks at the type before it looks at the length. -/
theorem feedInReadHeader : Obligations.FeedInReadHeader := by
  unfold Obligations.FeedInReadHeader
  refine ⟨fun s b hp hi => ?_, fun s b hp hi => ?_⟩
  · exact exec_decFeed_ok (congrArg Phase.held hp) (consumeByte_header0 hp hi b) (stepHdr0_eq b s)
  · refine exec_decFeed_ok (congrArg Phase.held hp) (consumeByte_header1 hp hi b) ?_
    split
    next hnone => exact stepHdr1_unknown b s hnone
    next hsome =>
      have hknown : (typeSize s.cfg s.hdrType).isSome = true := Option.isSome_iff_ne_none.2 hsome
      split
      next hb => subst hb; exact stepHdr1_noPayload s hknown
      next hb => exact stepHdr1_payload b s hknown hb

/-- Settles O26: the store succeeds because the cell exists, the buffer's laws give its reads, and the two ends of the arm
are told apart by a comparison that does not wrap. -/
theorem feedInReadPayload : Obligations.FeedInReadPayload := by
  unfold Obligations.FeedInReadPayload
  intro s b hp hi
  have hstep := (stepPayload_next_iff b s _).2 ⟨hi, rfl⟩
  have hexec := exec_decFeed_of_consumeByte (congrArg Phase.held hp) ((consumeByte_readPayload hp b).trans hstep)
  have hsame := Memory.read_write_same s.pay s.index.toNat b
  have hother := fun a => Memory.read_write_other s.pay s.index.toNat a b
  simp only [index_succ_eq_iff hi] at hexec
  by_cases hlast : s.index.toNat + 1 = s.hdrLen.toNat
  · simp only [if_pos hlast] at hexec ⊢
    exact ⟨_, hexec, hsame, hother, rfl⟩
  · simp only [if_neg hlast] at hexec ⊢
    exact ⟨_, hexec, hsame, hother, rfl⟩

/-- Settles O27: `INDEX` tells the low trailer byte from the high one, and the comparison after the high byte decides. -/
theorem feedInVerifyCrc : Obligations.FeedInVerifyCrc := by
  unfold Obligations.FeedInVerifyCrc
  refine ⟨fun s b hp hi => ?_, fun s b hp hi => ?_⟩
  · exact exec_decFeed_ok (congrArg Phase.held hp) (consumeByte_verifyCrc hp b) (stepCrc_low b s hi)
  · refine exec_decFeed_ok (congrArg Phase.held hp) (consumeByte_verifyCrc hp b) ?_
    split
    next hmatch => exact stepCrc_match b s hi hmatch
    next hmatch => exact stepCrc_mismatch b s hi hmatch

/-- Settles O28: the two phases are the held ones, and a held decoder takes no byte. -/
theorem feedWhileHeldIsBusy : Obligations.FeedWhileHeldIsBusy := by
  unfold Obligations.FeedWhileHeldIsBusy
  intro s b hp
  exact exec_decFeed_of_held ((held_iff_phase s).2 hp) b

end Sys2Proof.Machine
end

section
/-! SUPPORT. Family 42_decoder_access.md: the acknowledge and the read-outs as one equation per case of their guards, and
the statements `AcknowledgeReleases`, `ReadoutsWithoutOperand` and `PayloadReadout`. -/

namespace Sys2Proof

/-! ### The words of the acknowledge and of the read-outs -/

theorem decode_decAck : decode 0x11000000#32 = .ok .decAck := decode_of_row_accepts (o := .decAck) (by decide)

theorem decode_decStatus : decode 0x12000000#32 = .ok .decStatus := decode_of_row_accepts (o := .decStatus) (by decide)

theorem decode_decHdr : decode 0x13000000#32 = .ok .decHdr := decode_of_row_accepts (o := .decHdr) (by decide)

theorem decode_decRxcrc : decode 0x15000000#32 = .ok .decRxcrc := decode_of_row_accepts (o := .decRxcrc) (by decide)

theorem decode_decCalc : decode 0x16000000#32 = .ok .decCalc := decode_of_row_accepts (o := .decCalc) (by decide)

theorem decode_decPay (i : Byte) : decode (0x14#8 ++ 0x00#8 ++ 0x00#8 ++ i) = .ok (.decPay i) :=
  (decode_imm8 (o := .decPay) rfl i).trans
    (congrArg (Except.ok ∘ Instr.decPay) BitVec.extractLsb'_append_eq_right)

namespace Machine

/-! ### The two guards in terms of `PHASE` and `REASON` -/

theorem not_held_iff_phase (s : State) : ¬ s.held = true ↔ s.phase ≠ .loaded ∧ s.phase ≠ .failure :=
  (not_congr (held_iff_phase s)).trans not_or

theorem payloadComplete_iff_phase (s : State) :
    s.payloadComplete = true ↔ s.phase = .loaded ∨ (s.phase = .failure ∧ s.reason = .checksum) := by
  simp [State.payloadComplete_eq]

/-! ### `DEC.ACK` -/

theorem exec_decAck_of_held {s : State} (h : s.held = true) : exec .decAck s = .next (s.release.respond .ok 0#16) := by
  rw [← State.status_release s]
  exact if_pos h

theorem exec_decAck_of_not_held {s : State} (h : ¬ s.held = true) :
    exec .decAck s = .next (s.respondStatus .invalid) := if_neg h

/-! ### The read-outs without an operand -/

theorem exec_decStatus (s : State) : exec .decStatus s = .next (s.respond .ok s.status) := rfl

theorem exec_decCalc (s : State) : exec .decCalc s = .next (s.respond .ok s.calcReg) := rfl

theorem exec_decHdr_of_held {s : State} (h : s.held = true) :
    exec .decHdr s = .next (s.respond .ok (packBytes s.hdrLen s.hdrType)) := if_pos h

theorem exec_decHdr_of_not_held {s : State} (h : ¬ s.held = true) :
    exec .decHdr s = .next (s.respondStatus .invalid) := if_neg h

theorem exec_decRxcrc_of_complete {s : State} (h : s.payloadComplete = true) :
    exec .decRxcrc s = .next (s.respond .ok s.rxcrc) := if_pos h

theorem exec_decRxcrc_of_not_complete {s : State} (h : ¬ s.payloadComplete = true) :
    exec .decRxcrc s = .next (s.respondStatus .invalid) := if_neg h

/-! ### `DEC.PAY` -/

/-- An index below `HDR_LEN` is that of a cell that exists (rule R26). -/
theorem lt_maxPayload_of_lt_byte {i n : Byte} (h : i.toNat < n.toNat) : i.toNat < maxPayload :=
  Nat.lt_of_lt_of_le h (Nat.le_of_lt_succ n.isLt)

theorem exec_decPay_of_read {s : State} {i b : Byte} (hcomplete : s.payloadComplete = true)
    (hlt : i.toNat < s.hdrLen.toNat) (hread : s.pay.read i.toNat = some b) :
    exec (.decPay i) s = .next (s.respond .ok (zext16 b)) := by
  have hguard : (s.payloadComplete && decide (i.toNat < s.hdrLen.toNat)) = true := by simp [hcomplete, hlt]
  have hload : loadPay i s = .ok b := (loadPay_ok_iff i b s).2 ⟨lt_maxPayload_of_lt_byte hlt, hread⟩
  exact (if_pos hguard).trans (by rw [hload])

theorem exec_decPay_of_not_readable {s : State} {i : Byte}
    (h : ¬ (s.payloadComplete = true ∧ i.toNat < s.hdrLen.toNat)) :
    exec (.decPay i) s = .next (s.respondStatus .invalid) := if_neg (by simpa using h)

/-- Under the invariant `DEC.PAY` never stops: each cell that its guard lets through was written (rule R26). -/
theorem exec_decPay_completes {s : State} (hinv : s.Inv) (i : Byte) : ∃ t, exec (.decPay i) s = .next t := by
  by_cases h : s.payloadComplete = true ∧ i.toNat < s.hdrLen.toNat
  · obtain ⟨hcomplete, hlt⟩ := h
    have hwritten : (s.pay.read i.toNat).isSome = true := hinv.writtenAll (.inr hcomplete) i.toNat hlt
    obtain ⟨b, hread⟩ := Option.isSome_iff_exists.1 hwritten
    exact ⟨_, exec_decPay_of_read hcomplete hlt hread⟩
  · exact ⟨_, exec_decPay_of_not_readable h⟩

/-! ### The statements -/

/-- Settles O35: the held phases select the release, whose `STATUS` is 0, and the others the `INVALID` response. -/
theorem acknowledgeReleases : Obligations.AcknowledgeReleases := by
  unfold Obligations.AcknowledgeReleases
  refine ⟨decode_decAck, fun s hp => ?_, fun s hloaded hfailure => ?_⟩
  · rw [exec_decAck_of_held ((held_iff_phase s).2 hp), State.respond, State.respWord_ok_zero]
    rfl
  · exact exec_decAck_of_not_held ((not_held_iff_phase s).2 ⟨hloaded, hfailure⟩)

/-- Settles O36: `DEC.STATUS` and `DEC.CALC` have no guard; the guards of `DEC.HDR` and `DEC.RXCRC` are the conditions of
the statement. -/
theorem readoutsWithoutOperand : Obligations.ReadoutsWithoutOperand := by
  unfold Obligations.ReadoutsWithoutOperand
  refine ⟨decode_decStatus, decode_decHdr, decode_decRxcrc, decode_decCalc, fun s =>
    ⟨exec_decStatus s, exec_decCalc s, ?_, ?_⟩⟩
  · simp only [← held_iff_phase]
    split
    next hheld => exact exec_decHdr_of_held hheld
    next hfree => exact exec_decHdr_of_not_held hfree
  · simp only [← payloadComplete_iff_phase]
    split
    next hcomplete => exact exec_decRxcrc_of_complete hcomplete
    next hpartial => exact exec_decRxcrc_of_not_complete hpartial

/-- Settles O37: the guard of `DEC.PAY` is the condition of the statement, and the invariant says that the cells behind it
were written. -/
theorem payloadReadout : Obligations.PayloadReadout := by
  unfold Obligations.PayloadReadout
  simp only [← payloadComplete_iff_phase]
  exact ⟨decode_decPay, fun _ _ _ hcomplete hlt hread => exec_decPay_of_read hcomplete hlt hread,
    fun _ _ h => exec_decPay_of_not_readable h, fun _ i hinv => exec_decPay_completes hinv i⟩

end Machine
end Sys2Proof
end

section
/-! SUPPORT. Family 70_reset_and_hazards.md: the step whose input is a hardware reset, in both of its forms, and the
statement `HardwareResetWins`. -/

namespace Sys2Proof.Machine

/-- A hardware reset, alone or with a command word, is the whole step: the command word is not looked at (rules R176,
R190). -/
theorem step_of_hardwareReset {s : State} {x : HostInput} {rest : List HostInput} (hin : s.inputs = x :: rest)
    (hx : x = .reset ∨ ∃ w, x = .resetAndCommand w) : step s = .next (hardwareReset (s.setInputs rest)) := by
  rw [step, takeInput_cons s x rest hin]
  obtain rfl | ⟨w, rfl⟩ := hx
  · rfl
  · rfl

/-- `STATUS` does not read the inputs and the responses, the two fields that a hardware reset hands on to the host. -/
theorem status_hardwareReset (s : State) : (hardwareReset s).status = 0x0000#16 := State.status_resetWith s.cfg

/-- Settles O10: both forms of the input lead to the state of `hardwareReset`, whose elements have their reset values. -/
theorem hardwareResetWins : Obligations.HardwareResetWins := by
  unfold Obligations.HardwareResetWins
  intro s rest w hin
  have hstep : step s = .next (hardwareReset (s.setInputs rest)) := by
    obtain hreset | hboth := hin
    · exact step_of_hardwareReset hreset (.inl rfl)
    · exact step_of_hardwareReset hboth (.inr ⟨w, rfl⟩)
  exact ⟨_, hstep, rfl, rfl, rfl, rfl, rfl, rfl, Memory.read_nil, rfl, rfl, status_hardwareReset _, rfl, rfl⟩

end Sys2Proof.Machine
end

section
/-! SUPPORT. Family 'other', encoding: decode and encode are inverse to each other, and the rows of the opcode map exclude
each other (rules R71 to R74, R85). -/

namespace Sys2Proof

/-- Every operation's word is accepted by the row of its operation, and carries the operand. -/
theorem rowAccepts (i : Instr) : Laws.RowAccepts.Statement i := by
  cases i with
  | crcLoad seed => exact Laws.RowAccepts.crcLoad seed
  | crcByte b => exact Laws.RowAccepts.crcByte b
  | crcRead => exact Laws.RowAccepts.crcRead
  | decFeed b => exact Laws.RowAccepts.decFeed b
  | decAck => exact Laws.RowAccepts.decAck
  | decStatus => exact Laws.RowAccepts.decStatus
  | decHdr => exact Laws.RowAccepts.decHdr
  | decPay k => exact Laws.RowAccepts.decPay k
  | decRxcrc => exact Laws.RowAccepts.decRxcrc
  | decCalc => exact Laws.RowAccepts.decCalc
  | decReset => exact Laws.RowAccepts.decReset

theorem mem_opcodeTable_iff (r : OpcodeRow) : r ∈ opcodeTable ↔ ∃ o : Op, o.row = r := by
  simp [opcodeTable_eq_rows, Op.mem_all]

theorem decode_encode (i : Instr) : decode (encode i) = .ok i := by
  obtain ⟨r, hmem, -, hacc, hback⟩ := rowAccepts i
  obtain ⟨o, rfl⟩ := (mem_opcodeTable_iff r).1 hmem
  rw [decode_of_row_accepts hacc]
  exact congrArg Except.ok hback

/-- Where the unused bits of `IMM` are zero, the operand says the whole `IMM` (rule R72). -/
theorem imm_withOperand {o : Op} {w : Word} (h : o.form.unusedZero (immField w) = true) :
    (o.withOperand w).imm = immField w := by
  have himm8 (hz : (immField w).extractLsb' 8 8 = 0#8) : (immByte w).setWidth 16 = immField w := by
    have hlow : (immField w).extractLsb' 0 8 = immByte w := by ext k hk; simp [immField, immByte]
    rw [← hlow]
    exact (imm_of_high_zero _ hz).symm
  cases o with
  | crcLoad => rfl
  | crcByte | decFeed | decPay => exact himm8 (beq_iff_eq.1 h)
  | crcRead | decAck | decStatus | decHdr | decRxcrc | decCalc | decReset => exact (beq_iff_eq.1 h).symm

theorem encode_of_decode {w : Word} {i : Instr} (h : decode w = .ok i) : encode i = w := by
  obtain ⟨r, hmem, hacc, rfl⟩ := row_of_decode_ok h
  obtain ⟨o, rfl⟩ := (mem_opcodeTable_iff r).1 hmem
  obtain ⟨hopc, hrsv, hunused⟩ := (o.row_accepts_iff w).1 hacc
  show Command.word ⟨(o.withOperand w).op.opc, 0#8, (o.withOperand w).imm⟩ = w
  rw [op_withOperand, hopc, ← hrsv, imm_withOperand hunused]
  exact commandOf_word w

/-! ### The statements -/

/-- Settles O2: the row of the operation accepts its word, and no other row does. -/
theorem decodeOfEncodeIsIdentity : Obligations.DecodeOfEncodeIsIdentity := by
  unfold Obligations.DecodeOfEncodeIsIdentity
  exact decode_encode

/-- Settles O3: the row that accepts the word fixes `OPC`, `RSV` and the unused part of `IMM`, and the operand is the
rest. -/
theorem eachOperationHasOneWord : Obligations.EachOperationHasOneWord := by
  unfold Obligations.EachOperationHasOneWord
  exact fun w i h => encode_of_decode h

/-- Settles O4: both rows have the word's `OPC`, and no two operations share one. -/
theorem atMostOneRowMatches : Obligations.AtMostOneRowMatches := by
  unfold Obligations.AtMostOneRowMatches
  intro w r q hr hq hracc hqacc
  obtain ⟨o, rfl⟩ := (mem_opcodeTable_iff r).1 hr
  obtain ⟨p, rfl⟩ := (mem_opcodeTable_iff q).1 hq
  have hopc : o.opc = p.opc := ((o.row_accepts_iff w).1 hracc).1.trans ((p.row_accepts_iff w).1 hqacc).1.symm
  rw [Op.opc_inj.1 hopc]

/-- Settles O1: the seven words are encodings, and the three others break the clause of rule R84 that they are rejected
for. -/
theorem exampleWordsDecode : Obligations.ExampleWordsDecode := by
  unfold Obligations.ExampleWordsDecode
  exact ⟨decode_encode (.crcLoad 0x1234#16), decode_encode (.crcByte 0x41#8), decode_encode .crcRead,
    decode_encode (.decFeed 0x0A#8), decode_encode .decAck, decode_encode (.decPay 3#8), decode_encode .decReset,
    rfl, rfl, rfl⟩

end Sys2Proof
end

section
/-! SUPPORT. Family 'other', inversion: everything that a byte fed to a free decoder, an operation and a step can do, and
the parts of the state that they leave alone. The statements about steps and inputs, about responses and about the
configuration follow. -/

namespace Sys2Proof.Machine

/-! ### `DEC.FEED` of a decoder that is not held -/

/-- What a byte does to a decoder that is not held: one constructor for each way through the arms of rule R120. -/
inductive Consumes (b : Byte) (s : State) : State → Prop where
  /-- WAIT_SYNC1, any byte but `SYNC1` (rule R121) -/
  | discarded (hp : s.phase = .waitSync1) (hb : b ≠ sync1) : Consumes b s s
  /-- WAIT_SYNC1, `SYNC1` (rule R121) -/
  | syncBegun (hp : s.phase = .waitSync1) (hb : b = sync1) : Consumes b s (s.setPhase .waitSync2)
  /-- WAIT_SYNC2, `SYNC2` (rules R122, R123) -/
  | syncDone (hp : s.phase = .waitSync2) (hb : b = sync2) :
      Consumes b s (((s.setPhase .readHeader).setIndex 0#8).setCalc s.cfg.frameSeed)
  /-- WAIT_SYNC2, `SYNC1` (rule R122) -/
  | syncAgain (hp : s.phase = .waitSync2) (hb : b = sync1) : Consumes b s (s.setPhase .waitSync2)
  /-- WAIT_SYNC2, any other byte (rule R122) -/
  | syncLost (hp : s.phase = .waitSync2) (h2 : b ≠ sync2) (h1 : b ≠ sync1) : Consumes b s (s.setPhase .waitSync1)
  /-- header byte 0 (rule R124) -/
  | typeByte (hp : s.phase = .readHeader) (hi : s.index = 0#8) :
      Consumes b s (((s.setHdrType b).setCalc (crcStep s.calcReg b)).setIndex 1#8)
  /-- header byte 1 of an unrecognised type (rule R125) -/
  | typeUnknown (hp : s.phase = .readHeader) (hi : s.index ≠ 0#8) (ht : typeSize s.cfg s.hdrType = none) :
      Consumes b s
        (((((s.setHdrLen b).setCalc (crcStep s.calcReg b)).setPhase .failure).setReason .unknownType).setIndex 0#8)
  /-- header byte 1, no payload (rules R125, R126) -/
  | lengthZero (hp : s.phase = .readHeader) (hi : s.index ≠ 0#8) (ht : (typeSize s.cfg s.hdrType).isSome = true)
      (hb : b = 0#8) :
      Consumes b s ((((s.setHdrLen b).setCalc (crcStep s.calcReg b)).setPhase .verifyCrc).setIndex 0#8)
  /-- header byte 1, a payload follows (rules R125, R126) -/
  | lengthByte (hp : s.phase = .readHeader) (hi : s.index ≠ 0#8) (ht : (typeSize s.cfg s.hdrType).isSome = true)
      (hb : b ≠ 0#8) :
      Consumes b s ((((s.setHdrLen b).setCalc (crcStep s.calcReg b)).setPhase .readPayload).setIndex 0#8)
  /-- a payload byte that is not the last (rule R127) -/
  | payloadByte (hp : s.phase = .readPayload) (hcell : s.index.toNat < maxPayload) (hmore : s.index + 1#8 ≠ s.hdrLen) :
      Consumes b s
        (((s.setPay (s.pay.write s.index.toNat b)).setCalc (crcStep s.calcReg b)).setIndex (s.index + 1#8))
  /-- the last payload byte (rule R127) -/
  | payloadEnd (hp : s.phase = .readPayload) (hcell : s.index.toNat < maxPayload) (hlast : s.index + 1#8 = s.hdrLen) :
      Consumes b s
        ((((s.setPay (s.pay.write s.index.toNat b)).setCalc (crcStep s.calcReg b)).setPhase .verifyCrc).setIndex 0#8)
  /-- the low trailer byte (rule R128) -/
  | crcLow (hp : s.phase = .verifyCrc) (hi : s.index = 0#8) :
      Consumes b s ((s.setRxcrc (packBytes (highByte s.rxcrc) b)).setIndex 1#8)
  /-- the high trailer byte, equal CRCs (rule R128) -/
  | crcMatch (hp : s.phase = .verifyCrc) (hi : s.index ≠ 0#8) (hc : packBytes b (lowByte s.rxcrc) = s.calcReg) :
      Consumes b s (((s.setRxcrc (packBytes b (lowByte s.rxcrc))).setPhase .loaded).setIndex 0#8)
  /-- the high trailer byte, different CRCs (rule R128) -/
  | crcMismatch (hp : s.phase = .verifyCrc) (hi : s.index ≠ 0#8) (hc : packBytes b (lowByte s.rxcrc) ≠ s.calcReg) :
      Consumes b s
        ((((s.setRxcrc (packBytes b (lowByte s.rxcrc))).setPhase .failure).setReason .checksum).setIndex 0#8)

/-- Each constructor is the answer of the model's arm. -/
theorem Consumes.consumeByte_eq {b : Byte} {s t : State} (h : Consumes b s t) : consumeByte b s = .next t := by
  cases h with
  | discarded hp hb => rw [consumeByte_waitSync1 hp, stepSync1_other b s hb]
  | syncBegun hp hb => subst hb; rw [consumeByte_waitSync1 hp, stepSync1_sync]
  | syncDone hp hb => subst hb; rw [consumeByte_waitSync2 hp, stepSync2_sync]
  | syncAgain hp hb => subst hb; rw [consumeByte_waitSync2 hp, stepSync2_again]
  | syncLost hp h2 h1 => rw [consumeByte_waitSync2 hp, stepSync2_other b s h2 h1]
  | typeByte hp hi => rw [consumeByte_header0 hp hi, stepHdr0_eq]
  | typeUnknown hp hi ht => rw [consumeByte_header1 hp hi, stepHdr1_unknown b s ht]
  | lengthZero hp hi ht hb => subst hb; rw [consumeByte_header1 hp hi, stepHdr1_noPayload s ht]
  | lengthByte hp hi ht hb => rw [consumeByte_header1 hp hi, stepHdr1_payload b s ht hb]
  | payloadByte hp hcell hmore =>
    rw [consumeByte_readPayload hp, stepPayload_next_iff, if_neg hmore]; exact ⟨hcell, rfl⟩
  | payloadEnd hp hcell hlast =>
    rw [consumeByte_readPayload hp, stepPayload_next_iff, if_pos hlast]; exact ⟨hcell, rfl⟩
  | crcLow hp hi => rw [consumeByte_verifyCrc hp, stepCrc_low b s hi]
  | crcMatch hp hi hc => rw [consumeByte_verifyCrc hp, stepCrc_match b s hi hc]
  | crcMismatch hp hi hc => rw [consumeByte_verifyCrc hp, stepCrc_mismatch b s hi hc]

/-- A decoder that is not held takes every byte, unless that is a payload byte for a cell that does not exist. -/
theorem exists_consumes {s : State} (hfree : s.held = false)
    (hcell : s.phase = .readPayload → s.index.toNat < maxPayload) (b : Byte) : ∃ t, Consumes b s t := by
  cases hp : s.phase with
  | waitSync1 =>
    by_cases hb : b = sync1
    · exact ⟨_, .syncBegun hp hb⟩
    · exact ⟨_, .discarded hp hb⟩
  | waitSync2 =>
    by_cases h2 : b = sync2
    · exact ⟨_, .syncDone hp h2⟩
    by_cases h1 : b = sync1
    · exact ⟨_, .syncAgain hp h1⟩
    · exact ⟨_, .syncLost hp h2 h1⟩
  | readHeader =>
    by_cases hi : s.index = 0#8
    · exact ⟨_, .typeByte hp hi⟩
    cases ht : typeSize s.cfg s.hdrType with
    | none => exact ⟨_, .typeUnknown hp hi ht⟩
    | some n =>
      have hknown : (typeSize s.cfg s.hdrType).isSome = true := by rw [ht]; rfl
      by_cases hb : b = 0#8
      · exact ⟨_, .lengthZero hp hi hknown hb⟩
      · exact ⟨_, .lengthByte hp hi hknown hb⟩
  | readPayload =>
    by_cases hlast : s.index + 1#8 = s.hdrLen
    · exact ⟨_, .payloadEnd hp (hcell hp) hlast⟩
    · exact ⟨_, .payloadByte hp (hcell hp) hlast⟩
  | verifyCrc =>
    by_cases hi : s.index = 0#8
    · exact ⟨_, .crcLow hp hi⟩
    by_cases hc : packBytes b (lowByte s.rxcrc) = s.calcReg
    · exact ⟨_, .crcMatch hp hi hc⟩
    · exact ⟨_, .crcMismatch hp hi hc⟩
  | loaded => rw [State.held_eq, hp] at hfree; cases hfree
  | failure => rw [State.held_eq, hp] at hfree; cases hfree

theorem consumeByte_next_iff {b : Byte} {s t : State} (hfree : s.held = false) :
    consumeByte b s = .next t ↔ Consumes b s t := by
  refine ⟨fun h => ?_, Consumes.consumeByte_eq⟩
  have hcell (hp : s.phase = .readPayload) : s.index.toNat < maxPayload := by
    rw [consumeByte_readPayload hp] at h
    exact ((stepPayload_next_iff b s t).1 h).1
  obtain ⟨u, hu⟩ := exists_consumes hfree hcell b
  cases hu.consumeByte_eq.symm.trans h
  exact hu

/-- Only a decoder that is not held consumes a byte. -/
theorem Consumes.held_eq_false {b : Byte} {s t : State} (h : Consumes b s t) : s.held = false := by
  rw [State.held_eq]
  cases h with
  | discarded hp | syncBegun hp | syncDone hp | syncAgain hp | syncLost hp | typeByte hp | typeUnknown hp
  | lengthZero hp | lengthByte hp | payloadByte hp | payloadEnd hp | crcLow hp | crcMatch hp | crcMismatch hp =>
    rw [hp]; rfl

/-- A byte touches neither the configuration, nor `ACC`, nor the two lists of the host. -/
theorem Consumes.frame {b : Byte} {s t : State} (h : Consumes b s t) :
    t.cfg = s.cfg ∧ t.acc = s.acc ∧ t.inputs = s.inputs ∧ t.responses = s.responses := by
  cases h <;> exact ⟨rfl, rfl, rfl, rfl⟩

theorem Consumes.exec_eq {b : Byte} {s t : State} (h : Consumes b s t) :
    exec (.decFeed b) s = .next (t.respondStatus .ok) :=
  exec_decFeed_of_consumeByte h.held_eq_false h.consumeByte_eq

/-- Everything `DEC.FEED` can do when it answers a next state (rules R120, R131). -/
theorem exec_decFeed_cases {b : Byte} {s t : State} (h : exec (.decFeed b) s = .next t) :
    (s.held = true ∧ t = s.respondStatus .busy) ∨ (∃ u, Consumes b s u ∧ t = u.respondStatus .ok) := by
  cases hheld : s.held with
  | true =>
    rw [exec_decFeed_of_held hheld] at h
    cases h
    exact .inl ⟨rfl, rfl⟩
  | false =>
    have hnot : ¬ s.held = true := Bool.eq_false_iff.1 hheld
    obtain ⟨u, hu, rfl⟩ := (andThen_next_iff _ _ _).1 ((if_neg hnot).symm.trans h)
    exact .inr ⟨u, (consumeByte_next_iff hheld).1 hu, rfl⟩

/-! ### One operation -/

/-- The operations of the CRC unit (rule R63). -/
def crcOps : List Op := [.crcLoad, .crcByte, .crcRead]

/-- Everything an operation can do when it answers a next state: it is one of the CRC unit, it only responds, or it is a
`DEC.FEED` that consumes its byte, a `DEC.ACK` that releases, or `DEC.RESET`. -/
theorem exec_cases {i : Instr} {s t : State} (h : exec i s = .next t) :
    (i.op ∈ crcOps ∧ ∃ v, t = (s.setAcc v).respond .ok v) ∨
    (i.op ∉ crcOps ∧ ∃ rc d, t = s.respond rc d) ∨
    (∃ b u, i = .decFeed b ∧ Consumes b s u ∧ t = u.respondStatus .ok) ∨
    (i = .decAck ∧ s.held = true ∧ t = s.release.respond .ok 0#16) ∨
    (i = .decReset ∧ t = s.resetDecoder.respond .ok 0#16) := by
  cases i with
  | crcLoad seed => cases h; exact .inl ⟨(by decide : Op.crcLoad ∈ crcOps), _, rfl⟩
  | crcByte b => cases h; exact .inl ⟨(by decide : Op.crcByte ∈ crcOps), _, rfl⟩
  | crcRead => cases h; exact .inl ⟨by decide, s.acc, rfl⟩
  | decFeed b =>
    obtain ⟨-, rfl⟩ | ⟨u, hu, rfl⟩ := exec_decFeed_cases h
    · exact .inr (.inl ⟨(by decide : Op.decFeed ∉ crcOps), _, _, rfl⟩)
    · exact .inr (.inr (.inl ⟨b, u, rfl, hu, rfl⟩))
  | decAck =>
    by_cases hheld : s.held = true
    · rw [exec_decAck_of_held hheld] at h; cases h; exact .inr (.inr (.inr (.inl ⟨rfl, hheld, rfl⟩)))
    · rw [exec_decAck_of_not_held hheld] at h; cases h; exact .inr (.inl ⟨by decide, _, _, rfl⟩)
  | decStatus => cases h; exact .inr (.inl ⟨by decide, _, _, rfl⟩)
  | decHdr => exact .inr (.inl ⟨by decide, execDecHdr_responds h⟩)
  | decPay k => exact .inr (.inl ⟨(by decide : Op.decPay ∉ crcOps), execDecPay_responds h⟩)
  | decRxcrc => exact .inr (.inl ⟨by decide, execDecRxcrc_responds h⟩)
  | decCalc => cases h; exact .inr (.inl ⟨by decide, _, _, rfl⟩)
  | decReset => rw [exec_decReset] at h; cases h; exact .inr (.inr (.inr (.inr ⟨rfl, rfl⟩)))

/-- No operation touches the configuration or the inputs that still wait. -/
theorem exec_frame {i : Instr} {s t : State} (h : exec i s = .next t) : t.cfg = s.cfg ∧ t.inputs = s.inputs := by
  obtain ⟨-, v, rfl⟩ | ⟨-, rc, d, rfl⟩ | ⟨b, u, -, hu, rfl⟩ | ⟨-, -, rfl⟩ | ⟨-, rfl⟩ := exec_cases h
  · exact ⟨rfl, rfl⟩
  · exact ⟨rfl, rfl⟩
  · obtain ⟨hcfg, -, hin, -⟩ := hu.frame
    exact ⟨hcfg, hin⟩
  · exact ⟨rfl, rfl⟩
  · exact ⟨rfl, rfl⟩

/-! ### One step -/

theorem step_of_nil {s : State} (hin : s.inputs = []) : step s = .next s := by
  rw [step, takeInput_nil s hin]; rfl

theorem step_of_command {s : State} {w : Word} {rest : List HostInput} (hin : s.inputs = .command w :: rest) :
    step s = runCommand w (s.setInputs rest) := by
  rw [step, takeInput_cons s _ rest hin]

theorem runCommand_of_ok {w : Word} {i : Instr} (h : decode w = .ok i) (s : State) : runCommand w s = exec i s := by
  rw [runCommand, h]

/-- A step leaves the inputs behind the oldest waiting, and the configuration. -/
theorem step_frame {s t : State} (h : step s = .next t) : t.inputs = s.inputs.tail ∧ t.cfg = s.cfg := by
  obtain ⟨hin, rfl⟩ | ⟨w, rest, i, hin, -, hexec⟩ | ⟨w, rest, e, hin, -, rfl⟩ | ⟨x, rest, hin, -, rfl⟩ := step_cases s t h
  · exact ⟨by rw [hin]; rfl, rfl⟩
  · obtain ⟨hcfg, hinputs⟩ := exec_frame hexec
    exact ⟨by rw [hin, hinputs]; rfl, hcfg⟩
  · exact ⟨by rw [hin]; rfl, rfl⟩
  · exact ⟨by rw [hin]; rfl, rfl⟩

/-- With the word of an operation waiting, a step is that operation. -/
theorem step_of_encode {s : State} {i : Instr} {rest : List HostInput}
    (hin : s.inputs = .command (encode i) :: rest) : step s = exec i (s.setInputs rest) :=
  (step_of_command hin).trans (runCommand_of_ok (decode_encode i) _)

/-! ### A queue of commands -/

theorem execAll_cons_next_iff {i : Instr} {is : List Instr} {s t : State} :
    execAll (i :: is) s = .next t ↔ ∃ u, exec i s = .next u ∧ execAll is u = .next t := by
  rw [execAll]
  cases exec i s with
  | next u => simp
  | fault r => simp
  | refused r => simp

/-! ### What an operation does not look at -/

/-- The same decoder under the configuration `c`, with `ACC` and the two lists of the host as given. -/
def State.withContext (c : Config) (a : Half) (q : List HostInput) (rs : List Word) (s : State) : State :=
  { s with cfg := c, acc := a, inputs := q, responses := rs }

/-- Consuming a byte reads neither `ACC` nor the lists of the host, and of the configuration only `FRAME_SEED` and which
codes are recognised (rules R63, R126). -/
theorem Consumes.context {b : Byte} {s t : State} (h : Consumes b s t) {c : Config} (hseed : c.frameSeed = s.cfg.frameSeed)
    (hcodes : ∀ code, (typeSize c code).isSome = (typeSize s.cfg code).isSome) (a : Half) (q : List HostInput)
    (rs : List Word) :
    Consumes b (s.withContext c a q rs) (t.withContext c a q rs) := by
  have hknown (ht : (typeSize s.cfg s.hdrType).isSome = true) : (typeSize c s.hdrType).isSome = true :=
    (hcodes _).trans ht
  cases h with
  | discarded hp hb => exact .discarded hp hb
  | syncBegun hp hb => exact .syncBegun hp hb
  | syncDone hp hb =>
    have hdone : Consumes b (s.withContext c a q rs) _ := .syncDone hp hb
    rw [show (s.withContext c a q rs).cfg.frameSeed = s.cfg.frameSeed from hseed] at hdone
    exact hdone
  | syncAgain hp hb => exact .syncAgain hp hb
  | syncLost hp h2 h1 => exact .syncLost hp h2 h1
  | typeByte hp hi => exact .typeByte hp hi
  | typeUnknown hp hi ht =>
    have hnone : typeSize c s.hdrType = none := by
      rw [← Option.not_isSome_iff_eq_none, hcodes, ht]; exact Bool.false_ne_true
    exact .typeUnknown hp hi hnone
  | lengthZero hp hi ht hb => exact .lengthZero hp hi (hknown ht) hb
  | lengthByte hp hi ht hb => exact .lengthByte hp hi (hknown ht) hb
  | payloadByte hp hcell hmore => exact .payloadByte hp hcell hmore
  | payloadEnd hp hcell hlast => exact .payloadEnd hp hcell hlast
  | crcLow hp hi => exact .crcLow hp hi
  | crcMatch hp hi hc => exact .crcMatch hp hi hc
  | crcMismatch hp hi hc => exact .crcMismatch hp hi hc

/-- A decoder operation gives one response, and neither `ACC` nor the lists of the host have a part in it. -/
theorem exec_decoderOp_context {d : Instr} {s t : State} (hd : d.op ∉ crcOps) (h : exec d s = .next t) :
    ∃ r, t.responses = r :: s.responses ∧ ∀ a q rs,
      exec d (s.withContext s.cfg a q rs) = .next (t.withContext s.cfg a q (r :: rs)) := by
  cases d with
  | crcLoad seed => exact absurd (by decide : Op.crcLoad ∈ crcOps) hd
  | crcByte b => exact absurd (by decide : Op.crcByte ∈ crcOps) hd
  | crcRead => exact absurd (by decide : Op.crcRead ∈ crcOps) hd
  | decFeed b =>
    obtain ⟨hheld, rfl⟩ | ⟨u, hu, rfl⟩ := exec_decFeed_cases h
    · exact ⟨_, rfl, fun a q rs =>
        exec_decFeed_of_held (s := s.withContext s.cfg a q rs) hheld b⟩
    · obtain ⟨-, -, -, hresp⟩ := hu.frame
      exact ⟨_, congrArg _ hresp, fun a q rs => (hu.context rfl (fun _ => rfl) a q rs).exec_eq⟩
  | decAck =>
    by_cases hheld : s.held = true
    · rw [exec_decAck_of_held hheld] at h; cases h; exact ⟨_, rfl, fun a q rs => exec_decAck_of_held hheld⟩
    · rw [exec_decAck_of_not_held hheld] at h; cases h; exact ⟨_, rfl, fun a q rs => exec_decAck_of_not_held hheld⟩
  | decStatus => cases h; exact ⟨_, rfl, fun a q rs => rfl⟩
  | decHdr =>
    by_cases hheld : s.held = true
    · rw [exec_decHdr_of_held hheld] at h; cases h; exact ⟨_, rfl, fun a q rs => exec_decHdr_of_held hheld⟩
    · rw [exec_decHdr_of_not_held hheld] at h; cases h; exact ⟨_, rfl, fun a q rs => exec_decHdr_of_not_held hheld⟩
  | decPay k =>
    obtain ⟨hfull, hlt, -, b, hread, rfl⟩ | ⟨hguard, rfl⟩ := execDecPay_cases k s t h
    · exact ⟨_, rfl, fun a q rs => exec_decPay_of_read hfull hlt hread⟩
    · exact ⟨_, rfl, fun a q rs => exec_decPay_of_not_readable hguard⟩
  | decRxcrc =>
    by_cases hfull : s.payloadComplete = true
    · rw [exec_decRxcrc_of_complete hfull] at h; cases h
      exact ⟨_, rfl, fun a q rs => exec_decRxcrc_of_complete hfull⟩
    · rw [exec_decRxcrc_of_not_complete hfull] at h; cases h
      exact ⟨_, rfl, fun a q rs => exec_decRxcrc_of_not_complete hfull⟩
  | decCalc => cases h; exact ⟨_, rfl, fun a q rs => rfl⟩
  | decReset => rw [exec_decReset] at h; cases h; exact ⟨_, rfl, fun a q rs => exec_decReset _⟩

/-- The CRC unit's operations leave the decoder alone, and all others leave `ACC` alone (rule R63). -/
theorem exec_decoder_of_crcOp {i : Instr} {s t : State} (hi : i.op ∈ crcOps) (h : exec i s = .next t) :
    t.decoder = s.decoder := by
  obtain ⟨-, v, rfl⟩ | ⟨hno, -⟩ | ⟨b, u, rfl, -⟩ | ⟨rfl, -⟩ | ⟨rfl, -⟩ := exec_cases h
  · rfl
  · exact absurd hi hno
  · exact absurd hi (by decide : Op.decFeed ∉ crcOps)
  · exact absurd hi (by decide : Op.decAck ∉ crcOps)
  · exact absurd hi (by decide : Op.decReset ∉ crcOps)

theorem exec_acc_of_decoderOp {i : Instr} {s t : State} (hi : i.op ∉ crcOps) (h : exec i s = .next t) :
    t.acc = s.acc := by
  obtain ⟨hyes, -⟩ | ⟨-, rc, d, rfl⟩ | ⟨b, u, rfl, hu, rfl⟩ | ⟨rfl, -, rfl⟩ | ⟨rfl, rfl⟩ := exec_cases h
  · exact absurd hyes hi
  · rfl
  · obtain ⟨-, hacc, -⟩ := hu.frame
    exact hacc
  · rfl
  · rfl

/-- An operation gives one response, and the lists of the host have no part in it. -/
theorem exec_host {i : Instr} {s t : State} (h : exec i s = .next t) :
    ∃ r, t.responses = r :: s.responses ∧ ∀ q rs,
      exec i (s.withContext s.cfg s.acc q rs) = .next (t.withContext s.cfg t.acc q (r :: rs)) := by
  by_cases hi : i.op ∈ crcOps
  · cases i with
    | crcLoad seed => cases h; exact ⟨_, rfl, fun q rs => rfl⟩
    | crcByte b => cases h; exact ⟨_, rfl, fun q rs => rfl⟩
    | crcRead => cases h; exact ⟨_, rfl, fun q rs => rfl⟩
    | decFeed | decAck | decStatus | decHdr | decPay | decRxcrc | decCalc | decReset => simp [crcOps, Instr.op] at hi
  · obtain ⟨r, hr, hcontext⟩ := exec_decoderOp_context hi h
    rw [exec_acc_of_decoderOp hi h]
    exact ⟨r, hr, hcontext s.acc⟩

/-- The same for the inputs alone. -/
theorem exec_setInputs {i : Instr} {s t : State} (h : exec i s = .next t) (q : List HostInput) :
    exec i (s.setInputs q) = .next (t.setInputs q) := by
  obtain ⟨r, hr, hhost⟩ := exec_host h
  obtain ⟨hcfg, -⟩ := exec_frame h
  exact (hhost q s.responses).trans (by rw [← hr, ← hcfg]; rfl)

/-! ### The statements about steps -/

/-- Settles O8: the step takes the word and runs what it decodes to. -/
theorem stepRunsDecodedCommand : Obligations.StepRunsDecodedCommand := by
  unfold Obligations.StepRunsDecodedCommand
  intro s w rest hin
  rw [step_of_command hin]
  exact ⟨fun i hi => runCommand_of_ok hi _, fun e he => runCommand_of_error ⟨e, he⟩ _⟩

/-- Settles O9: no input, a command and a hardware reset each leave the inputs behind the oldest. -/
theorem eachStepTakesOneInput : Obligations.EachStepTakesOneInput := by
  unfold Obligations.EachStepTakesOneInput
  intro s t h
  refine ⟨(step_frame h).1, fun hnil => ?_⟩
  obtain ⟨-, ht⟩ | ⟨w, rest, i, hin, -⟩ | ⟨w, rest, e, hin, -⟩ | ⟨x, rest, hin, -⟩ := step_cases s t h
  · exact ht
  · rw [hnil] at hin; cases hin
  · rw [hnil] at hin; cases hin
  · rw [hnil] at hin; cases hin

/-- Settles O14: no operation, no illegal word and no hardware reset touches the configuration. -/
theorem configNeverChanges : Obligations.ConfigNeverChanges := by
  unfold Obligations.ConfigNeverChanges
  exact fun s t h => (step_frame h).2

theorem run_succ {M : Host.Core} {s u : M.State} (h : M.step s = .next u) (n : Nat) : M.run (n + 1) s = M.run n u := by
  rw [Host.Core.run, h]

/-- Settles O12, by induction on the operations: a step runs the first of them, and what waits behind it has no part in
that. -/
theorem queuedCommandsRunInOrder : Obligations.QueuedCommandsRunInOrder := by
  unfold Obligations.QueuedCommandsRunInOrder
  intro is
  induction is with
  | nil =>
    intro s t rest hin h
    cases h
    rw [List.map_nil, List.nil_append] at hin
    subst hin
    rfl
  | cons i is ih =>
    intro s t rest hin h
    obtain ⟨u, hexec, hrest⟩ := execAll_cons_next_iff.1 h
    obtain ⟨-, hinputs⟩ := exec_frame hexec
    have hself : u.setInputs rest = u := by rw [← show u.inputs = rest from hinputs]; rfl
    have hstep := (step_of_encode hin).trans (exec_setInputs hexec _)
    rw [List.length_cons, run_succ (M := core) hstep]
    refine ih _ t rest rfl ?_
    rw [← hrest]
    exact congrArg (execAll is) hself

end Sys2Proof.Machine
end

section
/-! SUPPORT. Family 'other', responses: the code each operation answers with, the fields of `STATUS`, and the statements
about read-outs, repetition, the two units and the stops. -/

namespace Sys2Proof.Machine

/-! ### The response code of an operation (rules R76, R174) -/

/-- The code that rule R174 gives an operation in a state. -/
def respCode (i : Instr) (s : State) : RespCode :=
  match i with
  | .decFeed _ => if s.held then .busy else .ok
  | .decAck | .decHdr => if s.held then .ok else .invalid
  | .decRxcrc => if s.payloadComplete then .ok else .invalid
  | .decPay k => if s.payloadComplete && decide (k.toNat < s.hdrLen.toNat) then .ok else .invalid
  | .crcLoad _ | .crcByte _ | .crcRead | .decStatus | .decCalc | .decReset => .ok

/-- The answer of an operation that led from `s` to `t`: one response with the operation's code, and with any code but
`OK` the data is `STATUS` and nothing else changed. -/
def Answered (i : Instr) (s t : State) : Prop :=
  ∃ d, t.responses = respWord (respCode i s) d :: s.responses ∧
    (respCode i s ≠ .ok → t = s.respondStatus (respCode i s) ∧ d = s.status)

theorem answered_ok {i : Instr} {s t : State} {d : Half} (hcode : respCode i s = .ok)
    (ht : t.responses = respWord .ok d :: s.responses) : Answered i s t := by
  rw [Answered, hcode]
  exact ⟨d, ht, absurd rfl⟩

theorem answered_status {i : Instr} {s t : State} {rc : RespCode} (hcode : respCode i s = rc)
    (ht : t = s.respondStatus rc) : Answered i s t := by
  subst hcode ht
  exact ⟨_, rfl, fun _ => ⟨rfl, rfl⟩⟩

theorem exec_answered {i : Instr} {s t : State} (h : exec i s = .next t) : Answered i s t := by
  cases i with
  | crcLoad seed => cases h; exact answered_ok rfl rfl
  | crcByte b => cases h; exact answered_ok rfl rfl
  | crcRead => cases h; exact answered_ok rfl rfl
  | decFeed b =>
    obtain ⟨hheld, rfl⟩ | ⟨u, hu, rfl⟩ := exec_decFeed_cases h
    · exact answered_status (if_pos hheld) rfl
    · obtain ⟨-, -, -, hresp⟩ := hu.frame
      exact answered_ok (if_neg (Bool.eq_false_iff.1 hu.held_eq_false)) (congrArg _ hresp)
  | decAck =>
    by_cases hheld : s.held = true
    · rw [exec_decAck_of_held hheld] at h; cases h; exact answered_ok (if_pos hheld) rfl
    · rw [exec_decAck_of_not_held hheld] at h; cases h; exact answered_status (if_neg hheld) rfl
  | decStatus => cases h; exact answered_ok rfl rfl
  | decHdr =>
    by_cases hheld : s.held = true
    · rw [exec_decHdr_of_held hheld] at h; cases h; exact answered_ok (if_pos hheld) rfl
    · rw [exec_decHdr_of_not_held hheld] at h; cases h; exact answered_status (if_neg hheld) rfl
  | decPay k =>
    obtain ⟨hfull, hlt, -, b, -, rfl⟩ | ⟨hguard, rfl⟩ := execDecPay_cases k s t h
    · exact answered_ok (if_pos (by simp [hfull, hlt])) rfl
    · exact answered_status (if_neg (by simpa using hguard)) rfl
  | decRxcrc =>
    by_cases hfull : s.payloadComplete = true
    · rw [exec_decRxcrc_of_complete hfull] at h; cases h; exact answered_ok (if_pos hfull) rfl
    · rw [exec_decRxcrc_of_not_complete hfull] at h; cases h; exact answered_status (if_neg hfull) rfl
  | decCalc => cases h; exact answered_ok rfl rfl
  | decReset => rw [exec_decReset] at h; cases h; exact answered_ok rfl rfl

theorem respCode_eq_busy_iff (i : Instr) (s : State) :
    respCode i s = .busy ↔ s.held = true ∧ ∃ b, i = .decFeed b := by
  cases i with
  | decFeed b => cases hheld : s.held <;> simp [respCode, hheld, -State.held_eq]
  | decAck | decHdr => cases hheld : s.held <;> simp [respCode, hheld, -State.held_eq]
  | decRxcrc => cases hfull : s.payloadComplete <;> simp [respCode, hfull]
  | decPay k => simp only [respCode]; split <;> simp
  | crcLoad | crcByte | crcRead | decStatus | decCalc | decReset => simp [respCode]

theorem respCode_eq_invalid_iff (i : Instr) (s : State) :
    respCode i s = .invalid ↔
      (s.held = false ∧ (i = .decAck ∨ i = .decHdr)) ∨ (s.payloadComplete = false ∧ i = .decRxcrc) ∨
      ∃ k, i = .decPay k ∧ (s.payloadComplete = false ∨ s.hdrLen.toNat ≤ k.toNat) := by
  cases i with
  | decFeed b => cases hheld : s.held <;> simp [respCode, hheld, -State.held_eq]
  | decAck | decHdr => cases hheld : s.held <;> simp [respCode, hheld, -State.held_eq]
  | decRxcrc => cases hfull : s.payloadComplete <;> simp [respCode, hfull]
  | decPay k =>
    cases hfull : s.payloadComplete with
    | false => simp [respCode, hfull]
    | true => by_cases hlt : k.toNat < s.hdrLen.toNat <;> simp [respCode, hfull, hlt, Nat.not_lt.1]
  | crcLoad | crcByte | crcRead | decStatus | decCalc | decReset => simp [respCode]

theorem respCode_ne_illegal (i : Instr) (s : State) : respCode i s ≠ .illegal := by
  cases i with
  | decFeed | decAck | decHdr | decRxcrc | decPay => simp only [respCode]; split <;> decide
  | crcLoad | crcByte | crcRead | decStatus | decCalc | decReset => exact (by decide : RespCode.ok ≠ .illegal)

theorem respCode_of_always_ok {i : Instr} (s : State)
    (h : i.op ∈ [Op.crcLoad, .crcByte, .crcRead, .decStatus, .decCalc, .decReset]) : respCode i s = .ok := by
  cases i with
  | crcLoad | crcByte | crcRead | decStatus | decCalc | decReset => rfl
  | decFeed | decAck | decHdr | decPay | decRxcrc => simp [Instr.op] at h

/-- The waiting inputs have no part in the code. -/
theorem respCode_setInputs (i : Instr) (s : State) (q : List HostInput) : respCode i (s.setInputs q) = respCode i s := by
  cases i <;> rfl

theorem RespCode.code_inj {c d : RespCode} : c.code = d.code ↔ c = d := by cases c <;> cases d <;> decide

theorem RespCode.code_le (c : RespCode) : c.code.toNat ≤ 3 := by cases c <;> decide

/-- Settles O13: the code is `respCode`'s for a word that decodes and `ILLEGAL` for any other. -/
theorem responsesAndErrorCodes : Obligations.ResponsesAndErrorCodes := by
  unfold Obligations.ResponsesAndErrorCodes
  intro s t w rest hin h
  rw [step_of_command hin] at h
  cases hdec : decode w with
  | error e =>
    rw [runCommand_of_error ⟨e, hdec⟩] at h
    cases h
    exact ⟨0x3#4, 0x0000#16, rfl, by decide, fun _ => rfl, by simp, by simp, by simp, by simp, fun _ => rfl, by simp⟩
  | ok i =>
    rw [runCommand_of_ok hdec] at h
    obtain ⟨d, hresp, herr⟩ := exec_answered h
    rw [respCode_setInputs] at hresp herr
    have hcode (c : RespCode) : (respCode i s).code = c.code ↔ respCode i s = c := RespCode.code_inj
    refine ⟨(respCode i s).code, d, hresp, RespCode.code_le _, fun hne => ?_, ?_, ?_, fun hbad => ?_, ?_, fun hill => ?_,
      fun j hj hop => ?_⟩
    · obtain ⟨ht, -⟩ := herr fun hok => hne ((hcode .ok).2 hok)
      rw [ht]
      rfl
    · simp only [Except.ok.injEq]
      exact (hcode .busy).trans (respCode_eq_busy_iff i s)
    · simp only [Except.ok.injEq]
      exact (hcode .invalid).trans (respCode_eq_invalid_iff i s)
    · have hne : respCode i s ≠ .ok := by
        intro hok
        rw [hok] at hbad
        exact absurd hbad (by decide)
      exact (herr hne).2
    · exact iff_of_false (fun hill => respCode_ne_illegal i s ((hcode .illegal).1 hill)) (fun ⟨e, he⟩ => nomatch he)
    · exact absurd ((hcode .illegal).1 hill) (respCode_ne_illegal i s)
    · cases hj
      exact (hcode .ok).2 (respCode_of_always_ok s hop)

/-! ### The fields of `STATUS` (rule R33) -/

/-- The low byte of `STATUS`. -/
def statusLow (p : Phase) (r : Reason) : Byte := r.code ++ p.coarse ++ 0#1 ++ p.code

theorem status_eq_index_append (s : State) : s.status = s.index ++ statusLow s.phase s.reason := by
  have assoc₂ (r : BitVec 2) (p : BitVec 2) : (s.index ++ r ++ p : BitVec 12) = s.index ++ (r ++ p : BitVec 4) :=
    BitVec.append_assoc
  have assoc₃ (r : BitVec 4) (z : BitVec 1) : (s.index ++ r ++ z : BitVec 13) = s.index ++ (r ++ z : BitVec 5) :=
    BitVec.append_assoc
  have assoc₄ (r : BitVec 5) (c : BitVec 3) : (s.index ++ r ++ c : BitVec 16) = s.index ++ (r ++ c : BitVec 8) :=
    BitVec.append_assoc
  calc s.status = (s.index ++ s.reason.code ++ s.phase.coarse : BitVec 12) ++ 0#1 ++ s.phase.code := rfl
    _ = (s.index ++ (s.reason.code ++ s.phase.coarse : BitVec 4) ++ 0#1 : BitVec 13) ++ s.phase.code := by rw [assoc₂]
    _ = (s.index ++ (s.reason.code ++ s.phase.coarse ++ 0#1 : BitVec 5) : BitVec 13) ++ s.phase.code := by rw [assoc₃]
    _ = s.index ++ statusLow s.phase s.reason := assoc₄ _ _

theorem status_extractLsb'_low (s : State) {i n : Nat} (h : i + n ≤ 8) :
    s.status.extractLsb' i n = (statusLow s.phase s.reason).extractLsb' i n := by
  rw [status_eq_index_append]
  exact BitVec.extractLsb'_append_eq_of_add_le h

/-- Settles O31: `INDEX` is the upper byte, and the fields of the lower one are evaluated for each phase and reason. -/
theorem statusFields : Obligations.StatusFields := by
  unfold Obligations.StatusFields
  intro s
  have hindex : s.status.extractLsb' 8 8 = s.index := by
    rw [status_eq_index_append]
    exact BitVec.extractLsb'_append_eq_left
  rw [status_extractLsb'_low s (by decide : 0 + 3 ≤ 8), status_extractLsb'_low s (by decide : 3 + 1 ≤ 8),
    status_extractLsb'_low s (by decide : 4 + 2 ≤ 8), status_extractLsb'_low s (by decide : 6 + 2 ≤ 8)]
  refine ⟨?_, ?_, ?_, ?_, hindex⟩ <;> cases s.phase <;> cases s.reason <;> rfl

/-! ### The stops (rules R26, R129) -/

theorem exec_decFeed_noCell {s : State} (hp : s.phase = .readPayload) (hi : ¬ s.index.toNat < maxPayload) (b : Byte) :
    exec (.decFeed b) s = .fault .payNoCell := by
  have hfree : ¬ s.held = true := by rw [State.held_eq, hp]; exact Bool.false_ne_true
  have hstore : storePay s.index b s = .fault .payNoCell := if_neg hi
  refine (if_neg hfree).trans ?_
  rw [consumeByte_readPayload hp, stepPayload, hstore]
  rfl

theorem exec_decPay_unwritten {s : State} {i : Byte} (hfull : s.payloadComplete = true)
    (hlt : i.toNat < s.hdrLen.toNat) (hread : s.pay.read i.toNat = none) :
    exec (.decPay i) s = .fault .payUnwritten := by
  have hguard : (s.payloadComplete && decide (i.toNat < s.hdrLen.toNat)) = true := by simp [hfull, hlt]
  have hload : loadPay i s = .error .payUnwritten := by
    rw [loadPay, if_pos (lt_maxPayload_of_lt_byte hlt), hread]
  exact (if_pos hguard).trans (by rw [hload])

/-- Settles O38: the store finds no cell 255, and the load finds no value. -/
theorem stopsOnMissingCells : Obligations.StopsOnMissingCells := by
  unfold Obligations.StopsOnMissingCells
  refine ⟨fun s b hp hi => exec_decFeed_noCell hp (by rw [hi]; decide) b, fun s i hfull hlt hread => ?_⟩
  exact exec_decPay_unwritten ((payloadComplete_iff_phase s).2 hfull) hlt hread

/-! ### Repetition (rules R56, R195) -/

/-- Settles O39: the released state is not held and has no complete payload, its `STATUS` is 0, and its `CALC` is that of
before. -/
theorem readoutsInvalidAfterAcknowledge : Obligations.ReadoutsInvalidAfterAcknowledge := by
  unfold Obligations.ReadoutsInvalidAfterAcknowledge
  intro s t hheld h
  rw [exec_decAck_of_held hheld] at h
  cases h
  have hinvalid : (s.release.respond .ok 0#16).respondStatus .invalid =
      { s.release.respond .ok 0#16 with responses := 0x20000000#32 :: (s.release.respond .ok 0#16).responses } := by
    rw [State.respondStatus_eq, State.status_respond, State.status_release, State.respond, State.respWord_invalid_zero]
  rw [← hinvalid]
  have hfree : ¬ (s.release.respond .ok 0#16).held = true := Bool.false_ne_true
  have hpartial : ¬ (s.release.respond .ok 0#16).payloadComplete = true := Bool.false_ne_true
  exact ⟨exec_decHdr_of_not_held hfree, exec_decRxcrc_of_not_complete hpartial,
    fun i => exec_decPay_of_not_readable fun hguard => hpartial hguard.1, rfl⟩

/-- The read-outs change nothing but the responses. -/
theorem exec_readout {i : Instr} {s t : State}
    (hi : i.op ∈ [Op.crcRead, .decStatus, .decHdr, .decPay, .decRxcrc, .decCalc]) (h : exec i s = .next t) :
    ∃ rc d, t = s.respond rc d := by
  cases i with
  | crcLoad | crcByte | decFeed | decAck | decReset => simp [Instr.op] at hi
  | crcRead | decStatus | decCalc => cases h; exact ⟨_, _, rfl⟩
  | decHdr => exact execDecHdr_responds h
  | decPay k => exact execDecPay_responds h
  | decRxcrc => exact execDecRxcrc_responds h

/-- An operation that only responded responds the same again, since the responses have no part in it. -/
theorem exec_again_of_respond {i : Instr} {s : State} {rc : RespCode} {d : Half} (h : exec i s = .next (s.respond rc d)) :
    exec i (s.respond rc d) = .next ((s.respond rc d).respond rc d) := by
  obtain ⟨r, hr, hhost⟩ := exec_host h
  cases hr
  exact hhost s.inputs (respWord rc d :: s.responses)

/-- Settles O40: a read-out leaves a state that differs in its responses only; `CRC.LOAD` and `DEC.RESET` overwrite what
they wrote before; `DEC.ACK` leaves a state that is not held. -/
theorem repeatingOperations : Obligations.RepeatingOperations := by
  unfold Obligations.RepeatingOperations
  refine ⟨fun s t i hi h => ?_, fun s t i hi h => ?_, fun s t h => ?_⟩
  · obtain ⟨rc, d, rfl⟩ := exec_readout hi h
    exact ⟨respWord rc d, rfl, exec_again_of_respond h⟩
  · cases i with
    | crcLoad seed => cases h; exact ⟨_, rfl, rfl⟩
    | decReset => rw [exec_decReset] at h; cases h; exact ⟨_, rfl, exec_decReset _⟩
    | crcByte | crcRead | decFeed | decAck | decStatus | decHdr | decPay | decRxcrc | decCalc => simp [Instr.op] at hi
  · have hfree : ¬ t.held = true := by
      obtain ⟨-, rfl⟩ | ⟨hfree, rfl⟩ := execDecAck_cases h
      · exact Bool.false_ne_true
      · exact Bool.eq_false_iff.1 hfree
    exact exec_decAck_of_not_held hfree

/-! ### The two units (rule R63) -/

/-- An operation of the CRC unit reads `ACC` alone, writes it, and responds with it. -/
theorem exec_crcOp {c : Instr} (hc : c.op ∈ crcOps) :
    ∃ f : Half → Half, ∀ s : State, exec c s = .next ((s.setAcc (f s.acc)).respond .ok (f s.acc)) := by
  cases c with
  | crcLoad seed => exact ⟨fun _ => seed, exec_crcLoad seed⟩
  | crcByte b => exact ⟨fun a => crcStep a b, exec_crcByte b⟩
  | crcRead => exact ⟨id, exec_crcRead⟩
  | decFeed | decAck | decStatus | decHdr | decPay | decRxcrc | decCalc | decReset => simp [crcOps, Instr.op] at hc

/-- Settles O47: the decoder operation gives its response and its effect under any `ACC` and any responses, and the CRC
operation under any decoder. -/
theorem unitsAreIndependent : Obligations.UnitsAreIndependent := by
  unfold Obligations.UnitsAreIndependent
  intro c d s hc hd
  refine ⟨fun t => exec_decoder_of_crcOp hc, fun t => exec_acc_of_decoderOp hd, fun t h => ?_⟩
  obtain ⟨f, hf⟩ := exec_crcOp hc
  rw [execAll_cons_next _ _ _ _ (hf s)] at h
  obtain ⟨u, hexec, hnil⟩ := execAll_cons_next_iff.1 h
  cases hnil
  obtain ⟨q, hq, hcontext⟩ := exec_decoderOp_context hd hexec
  obtain ⟨hcfg, hinputs⟩ := exec_frame hexec
  have hacc := exec_acc_of_decoderOp hd hexec
  refine ⟨respWord .ok (f s.acc), q, hq, ?_⟩
  have hback : exec d s = .next (t.withContext s.cfg s.acc s.inputs (q :: s.responses)) :=
    hcontext s.acc s.inputs s.responses
  rw [execAll_cons_next _ _ _ _ hback, execAll_cons_next _ _ _ _ (hf _), execAll_nil]
  show Host.Outcome.next (t.withContext s.cfg (f s.acc) s.inputs (respWord .ok (f s.acc) :: q :: s.responses)) = _
  rw [← show t.cfg = s.cfg from hcfg, ← show t.inputs = s.inputs from hinputs]
  rw [← show t.acc = f s.acc from hacc]
  rfl

/-! ### Pseudo-instructions (rule R79) -/

/-- Settles O23: the equations are the definition's; the reads of `DEC.READPKT` are counted off. -/
theorem pseudoInstructionsExpand : Obligations.PseudoInstructionsExpand := by
  unfold Obligations.PseudoInstructionsExpand
  refine ⟨fun _ => rfl, fun _ _ _ => rfl, fun _ _ => rfl, fun n => ⟨?_, rfl, fun i hi => ?_⟩⟩
  · simp [expandPseudo]
  · simp [expandPseudo, hi]

/-! ### A frame that stops arriving (rule R138) -/

theorem not_held_of_accumulating {s : State} (hacc : s.phase.accumulating = true) : s.held = false := by
  rw [State.held_eq]
  cases hp : s.phase with
  | loaded | failure => rw [hp] at hacc; cases hacc
  | waitSync1 | waitSync2 | readHeader | readPayload | verifyCrc => rfl

/-- Settles O42: of the operations that change the decoder, `DEC.FEED` and `DEC.RESET` are excluded, and `DEC.ACK` needs
a held one. -/
theorem stalledFrameStays : Obligations.StalledFrameStays := by
  unfold Obligations.StalledFrameStays
  intro s t hacc h hquiet
  have hfree := not_held_of_accumulating hacc
  obtain ⟨-, rfl⟩ | ⟨w, rest, i, hin, hdec, hexec⟩ | ⟨w, rest, e, -, -, rfl⟩ | ⟨x, rest, hin, hx, rfl⟩ :=
    step_cases s t h
  · rfl
  · obtain ⟨w', hw, hnoReset, hnoFeed⟩ := hquiet _ _ hin
    cases hw
    obtain hkeep | ⟨-, b, rfl⟩ | ⟨hheld, -⟩ | ⟨rfl, -⟩ := exec_decoder_cases hexec
    · exact hkeep
    · exact absurd hdec (hnoFeed b)
    · exact absurd (hfree.symm.trans hheld) Bool.false_ne_true
    · exact absurd hdec hnoReset
  · rfl
  · obtain ⟨w', rfl, -⟩ := hquiet _ _ hin
    obtain hreset | ⟨w, hboth⟩ := hx
    · cases hreset
    · cases hboth

end Sys2Proof.Machine
end

section
/-! SUPPORT. Family 'other', CRC arithmetic: the shift of rule R100 is linear and injective, so `crc_step` and `calc` are;
its table form, and its reading as a polynomial remainder. -/

namespace Sys2Proof.Machine

/-! ### Linearity (rule R107) -/

theorem crcShift_xor (x y : Half) : crcShift (x ^^^ y) = crcShift x ^^^ crcShift y := by
  unfold crcShift
  rw [BitVec.msb_xor, BitVec.shiftLeft_xor_distrib]
  cases x.msb <;> cases y.msb
  · rfl
  · exact BitVec.xor_assoc _ _ _
  · show x <<< 1 ^^^ y <<< 1 ^^^ poly = x <<< 1 ^^^ poly ^^^ y <<< 1
    rw [BitVec.xor_assoc, BitVec.xor_assoc, BitVec.xor_comm poly]
  · show x <<< 1 ^^^ y <<< 1 = x <<< 1 ^^^ poly ^^^ (y <<< 1 ^^^ poly)
    rw [BitVec.xor_assoc, BitVec.xor_comm (y <<< 1), ← BitVec.xor_assoc poly, BitVec.xor_self, BitVec.zero_xor]

theorem crcShifts_xor (n : Nat) (x y : Half) : crcShifts n (x ^^^ y) = crcShifts n x ^^^ crcShifts n y := by
  induction n generalizing x y with
  | zero => rfl
  | succ n ih => rw [crcShifts, crcShift_xor, ih]; rfl

theorem crcStep_xor (a a' : Half) (b b' : Byte) : crcStep (a ^^^ a') (b ^^^ b') = crcStep a b ^^^ crcStep a' b' := by
  unfold crcStep
  rw [BitVec.setWidth_xor, BitVec.shiftLeft_xor_distrib, ← crcShifts_xor]
  congr 1
  ac_rfl

/-- Settles O19: `crc_step` is linear because the shift is, and `calc` by induction over the bytes. -/
theorem crcIsLinear : Obligations.CrcIsLinear := by
  unfold Obligations.CrcIsLinear
  refine ⟨crcStep_xor, fun bytes => ?_⟩
  induction bytes with
  | nil => exact fun _ _ => rfl
  | cons b rest ih =>
    intro seed seed'
    have hstep : crcStep (seed ^^^ seed') b = crcStep seed b ^^^ crcStep seed' 0x00#8 := by
      rw [← crcStep_xor, BitVec.xor_zero]
    rw [crcCalc, hstep]
    exact ih _ _

/-! ### `calc` over parts (rule R103) -/

theorem crcCalc_append (a b : List Byte) (seed : Half) : crcCalc (a ++ b) seed = crcCalc b (crcCalc a seed) := by
  rw [crcCalc_eq_foldl, crcCalc_eq_foldl, crcCalc_eq_foldl, List.foldl_append]

/-- Settles O18. -/
theorem calcChains : Obligations.CalcChains := by
  unfold Obligations.CalcChains
  exact crcCalc_append

/-! ### Injectivity (rule R110) -/

/-- Bit 0 of the shifted value says whether bit 15 was set, since bit 0 of `POLY` is. -/
theorem crcShift_getLsbD_zero (x : Half) : (crcShift x).getLsbD 0 = x.msb := by
  have hpoly : poly.getLsbD 0 = true := rfl
  unfold crcShift
  cases x.msb with
  | true => simp [hpoly]
  | false => simp

theorem crcShift_injective : Function.Injective crcShift := by
  intro x y h
  have hmsb : x.msb = y.msb := by rw [← crcShift_getLsbD_zero, h, crcShift_getLsbD_zero]
  have hshift : x <<< 1 = y <<< 1 := by
    unfold crcShift at h
    rw [hmsb] at h
    cases hy : y.msb with
    | true => rw [hy] at h; exact (BitVec.xor_left_inj _).1 h
    | false => rw [hy] at h; exact h
  apply BitVec.eq_of_getLsbD_eq
  intro i hi
  by_cases htop : i = 15
  · subst htop; exact hmsb
  · have hbit := congrArg (fun v : Half => v.getLsbD (i + 1)) hshift
    simpa [hi, show i + 1 < 16 by omega] using hbit

theorem crcShifts_injective (n : Nat) : Function.Injective (crcShifts n) := by
  induction n with
  | zero => exact fun _ _ h => h
  | succ n ih => exact fun _ _ h => crcShift_injective (ih h)

theorem crcStep_left_injective (b : Byte) : Function.Injective fun acc => crcStep acc b := by
  intro x y h
  exact (BitVec.xor_left_inj _).1 (crcShifts_injective 8 h)

theorem crcStep_right_injective (acc : Half) : Function.Injective (crcStep acc) := by
  intro b b' h
  have hshift : b.setWidth 16 <<< 8 = b'.setWidth 16 <<< 8 := (BitVec.xor_right_inj _).1 (crcShifts_injective 8 h)
  apply BitVec.eq_of_getLsbD_eq
  intro i hi
  have hbit := congrArg (fun v : Half => v.getLsbD (i + 8)) hshift
  simpa [show i + 8 < 16 by omega, show i < 16 by omega] using hbit

theorem crcCalc_injective (bytes : List Byte) : Function.Injective (crcCalc bytes) := by
  induction bytes with
  | nil => exact fun _ _ h => h
  | cons b rest ih => exact fun _ _ h => crcStep_left_injective b (ih h)

theorem crcCalc_ne_of_byte_ne (before after : List Byte) {b b' : Byte} (seed : Half) (hb : b ≠ b') :
    crcCalc (before ++ b :: after) seed ≠ crcCalc (before ++ b' :: after) seed := by
  rw [crcCalc_append, crcCalc_append]
  exact fun h => hb (crcStep_right_injective _ (crcCalc_injective after h))

/-- Settles O20: up to the byte the two runs agree, `crc_step` tells the bytes apart, and the rest keeps the values
apart. -/
theorem oneByteChangeChangesCalc : Obligations.OneByteChangeChangesCalc := by
  unfold Obligations.OneByteChangeChangesCalc
  exact fun before after b b' seed hb => crcCalc_ne_of_byte_ne before after seed hb

/-! ### The table form (rule R101) -/

/-- While the bits that leave the register are zero, the shifts are plain ones. -/
theorem crcShifts_of_lt (n : Nat) (x : Half) (h : x.toNat * 2 ^ n < 2 ^ 16) : crcShifts n x = x <<< n := by
  induction n generalizing x with
  | zero => simp [crcShifts]
  | succ n ih =>
    have hle : x.toNat * 2 ≤ x.toNat * 2 ^ (n + 1) := Nat.mul_le_mul_left _ (Nat.le_pow (Nat.succ_pos n))
    have hsmall : x.toNat * 2 < 2 ^ 16 := Nat.lt_of_le_of_lt hle h
    have hmsb : x.msb = false := BitVec.msb_eq_false_iff_two_mul_lt.2 (by rwa [Nat.mul_comm])
    have hshift : crcShift x = x <<< 1 := by rw [crcShift, hmsb]; rfl
    have hval : (x <<< 1).toNat = x.toNat * 2 := by
      rw [BitVec.toNat_shiftLeft, Nat.shiftLeft_eq, pow_one, Nat.mod_eq_of_lt hsmall]
    rw [crcShifts, hshift, ih _ (by rwa [hval, Nat.mul_assoc, ← pow_succ']), Nat.add_comm, BitVec.shiftLeft_add]

/-- A 16-bit value is its low byte and its high byte, each in its place. -/
theorem half_eq_low_xor_high (v : Half) :
    v = (lowByte v).setWidth 16 ^^^ ((highByte v).setWidth 16 <<< 8) := by
  apply BitVec.eq_of_getLsbD_eq
  intro i hi
  by_cases hlow : i < 8
  · simp [lowByte, highByte, hlow, hi]
  · simp [lowByte, highByte, hlow, hi, show i - 8 < 8 by omega, show 8 + (i - 8) = i by omega]

/-- The low half of `acc` passes through the eight shifts unreduced. -/
theorem crcStep_low (v : Half) : crcStep ((lowByte v).setWidth 16) 0x00#8 = v <<< 8 := by
  have hsmall : ((lowByte v).setWidth 16).toNat * 2 ^ 8 < 2 ^ 16 := by
    have hlt := (lowByte v).isLt
    rw [BitVec.toNat_setWidth, Nat.mod_eq_of_lt (by omega)]
    omega
  have hshift : (lowByte v).setWidth 16 <<< 8 = v <<< 8 := by
    apply BitVec.eq_of_getLsbD_eq
    intro i hi
    by_cases hlow : i < 8
    · simp [hlow]
    · simp [lowByte, hlow, hi, show i - 8 < 8 by omega, show i - 8 < 16 by omega]
  rw [← hshift, ← crcShifts_of_lt 8 _ hsmall]
  exact congrArg (crcShifts 8) BitVec.xor_zero

/-- The printed table, entry by entry. -/
theorem crcTableAt_eq_crcStep (i : Byte) : crcTableAt i = crcStep 0x0000#16 i := by
  revert i
  decide +kernel

theorem crcStep_eq_table (acc : Half) (b : Byte) : crcStep acc b = (acc <<< 8) ^^^ crcTableAt (highByte acc ^^^ b) := by
  have hhigh : crcStep ((highByte acc).setWidth 16 <<< 8) b = crcStep 0x0000#16 (highByte acc ^^^ b) := by
    unfold crcStep
    rw [BitVec.setWidth_xor, BitVec.shiftLeft_xor_distrib, BitVec.zero_xor]
  calc crcStep acc b
      = crcStep ((lowByte acc).setWidth 16 ^^^ ((highByte acc).setWidth 16 <<< 8)) (0x00#8 ^^^ b) := by
        rw [← half_eq_low_xor_high, BitVec.zero_xor]
    _ = (acc <<< 8) ^^^ crcTableAt (highByte acc ^^^ b) := by
        rw [crcStep_xor, crcStep_low, hhigh, crcTableAt_eq_crcStep]

/-- Settles O16: the high half of `acc` meets the byte in the table, and the low half is shifted. -/
theorem crcStepEqualsTableForm : Obligations.CrcStepEqualsTableForm := by
  unfold Obligations.CrcStepEqualsTableForm
  exact ⟨crcStep_eq_table, crcTableAt_eq_crcStep⟩

/-! ### The polynomial reading (rule R100) -/

section Poly

open Polynomial

/-- A bit vector read as a polynomial over GF(2): bit `i` is the coefficient of `x^i`. -/
noncomputable def bitsPoly {w : Nat} (v : BitVec w) : (ZMod 2)[X] :=
  ∑ i ∈ Finset.range w, if v.getLsbD i then X ^ i else 0

/-- The generator `x^16 + x^12 + x^5 + 1`. -/
noncomputable def generator : (ZMod 2)[X] := X ^ 16 + X ^ 12 + X ^ 5 + 1

theorem bitsPoly_xor {w : Nat} (u v : BitVec w) : bitsPoly (u ^^^ v) = bitsPoly u + bitsPoly v := by
  unfold bitsPoly
  rw [← Finset.sum_add_distrib]
  refine Finset.sum_congr rfl fun i _ => ?_
  rw [BitVec.getLsbD_xor]
  cases u.getLsbD i <;> cases v.getLsbD i <;> simp [CharTwo.add_self_eq_zero]

theorem bitsPoly_twoPow {w i : Nat} (hi : i < w) : bitsPoly (BitVec.twoPow w i) = X ^ i := by
  unfold bitsPoly
  rw [Finset.sum_eq_single i]
  · simp [hi]
  · intro j _ hj
    simp [hi, Ne.symm hj]
  · intro hmem
    exact absurd (Finset.mem_range.2 hi) hmem

theorem bitsPoly_poly : bitsPoly poly = X ^ 12 + X ^ 5 + 1 := by
  have hbits : poly = BitVec.twoPow 16 12 ^^^ BitVec.twoPow 16 5 ^^^ BitVec.twoPow 16 0 := by decide
  rw [hbits, bitsPoly_xor, bitsPoly_xor, bitsPoly_twoPow (by decide), bitsPoly_twoPow (by decide),
    bitsPoly_twoPow (by decide), pow_zero]

/-- A shift by one is a multiplication by `x`, but for the bit that leaves the register. -/
theorem bitsPoly_mul_X (v : Half) : bitsPoly v * X = bitsPoly (v <<< 1) + if v.msb then X ^ 16 else 0 := by
  have hlow : bitsPoly (v <<< 1) = ∑ i ∈ Finset.range 15, (if v.getLsbD i then X ^ (i + 1) else 0 : (ZMod 2)[X]) := by
    unfold bitsPoly
    rw [Finset.sum_range_succ']
    simp only [BitVec.getLsbD_shiftLeft]
    refine (add_zero _).trans (Finset.sum_congr rfl fun i hi => ?_)
    have hlt : i + 1 < 16 := by have := Finset.mem_range.1 hi; omega
    simp [hlt]
  have hmsb : v.getLsbD 15 = v.msb := rfl
  rw [hlow, bitsPoly, Finset.sum_range_succ, add_mul, Finset.sum_mul, hmsb]
  simp only [ite_mul, zero_mul, ← pow_succ]

/-- The conditional shift multiplies by `x` and takes off a multiple of the generator. -/
theorem bitsPoly_crcShift (v : Half) :
    bitsPoly v * X = bitsPoly (crcShift v) + (if v.msb then 1 else 0) * generator := by
  rw [bitsPoly_mul_X, crcShift, generator]
  cases v.msb with
  | false => simp
  | true =>
    simp only [if_true, bitsPoly_xor, bitsPoly_poly]
    linear_combination -CharTwo.add_self_eq_zero (X ^ 12 + X ^ 5 + 1 : (ZMod 2)[X])

theorem bitsPoly_crcShifts (n : Nat) (v : Half) :
    ∃ q, bitsPoly v * X ^ n = bitsPoly (crcShifts n v) + q * generator := by
  induction n generalizing v with
  | zero => exact ⟨0, by simp [crcShifts]⟩
  | succ n ih =>
    obtain ⟨q, hq⟩ := ih (crcShift v)
    refine ⟨q + (if v.msb then 1 else 0) * X ^ n, ?_⟩
    rw [crcShifts]
    linear_combination X ^ n * bitsPoly_crcShift v + hq

/-- A byte in the upper half of a 16-bit value. -/
theorem bitsPoly_shiftLeft_eight (b : Byte) : bitsPoly (b.setWidth 16 <<< 8) = bitsPoly b * X ^ 8 := by
  unfold bitsPoly
  refine (Finset.sum_range_add _ 8 8).trans ?_
  rw [Finset.sum_mul, Finset.sum_eq_zero, zero_add]
  · refine Finset.sum_congr rfl fun i hi => ?_
    have hlt : i < 8 := Finset.mem_range.1 hi
    simp only [BitVec.getLsbD_shiftLeft, BitVec.getLsbD_setWidth, Nat.add_sub_cancel_left]
    simp [show 8 + i < 16 by omega, show i < 16 by omega, pow_add, mul_comm]
  · intro i hi
    simp [Finset.mem_range.1 hi]

end Poly

/-- `n` shifts in a row are the shift iterated, as the pseudocode of rule R100 writes it. -/
theorem crcShifts_eq_iterate (n : Nat) (v : Half) :
    crcShifts n v = (fun x : Half => if x.getLsbD 15 then (x <<< 1) ^^^ 0x1021#16 else x <<< 1)^[n] v := by
  induction n generalizing v with
  | zero => rfl
  | succ n ih => rw [Function.iterate_succ_apply, ← ih]; rfl

/-- Settles O15: each shift divides once by the generator, and the byte enters in the upper half. -/
theorem crcStepIsPolynomialRemainder : Obligations.CrcStepIsPolynomialRemainder := by
  unfold Obligations.CrcStepIsPolynomialRemainder
  refine ⟨fun acc b => crcShifts_eq_iterate 8 _, fun acc b => ?_, by decide⟩
  obtain ⟨q, hq⟩ := bitsPoly_crcShifts 8 (acc ^^^ (b.setWidth 16 <<< 8))
  rw [bitsPoly_xor, bitsPoly_shiftLeft_eight] at hq
  refine ⟨q, ?_⟩
  show bitsPoly acc * Polynomial.X ^ 8 + bitsPoly b * Polynomial.X ^ 16 = bitsPoly (crcStep acc b) + q * generator
  rw [← show _ = bitsPoly (crcStep acc b) + q * generator from hq]
  ring

/-! ### The CRC unit over a sequence of bytes (rules R79, R198) -/

/-- `CRC.BYTE`s carry on from `ACC`, one response each, and touch nothing else. -/
theorem execAll_crcByte (bytes : List Byte) (s : State) :
    ∃ t, execAll (bytes.map Instr.crcByte) s = .next t ∧ t.acc = crcCalc bytes s.acc ∧
      t.responses.length = s.responses.length + bytes.length ∧ t.decoder = s.decoder ∧ t.cfg = s.cfg ∧
      t.inputs = s.inputs := by
  induction bytes generalizing s with
  | nil => exact ⟨s, rfl, rfl, rfl, rfl, rfl, rfl⟩
  | cons b rest ih =>
    obtain ⟨t, hrun, hacc, hlen, hdecoder, hcfg, hinputs⟩ :=
      ih ((s.setAcc (crcStep s.acc b)).respond .ok (crcStep s.acc b))
    refine ⟨t, ?_, hacc, ?_, hdecoder, hcfg, hinputs⟩
    · rw [List.map_cons, execAll_cons_next _ _ _ _ (exec_crcByte b s), hrun]
    · rw [hlen, State.respond_responses, List.length_cons, List.length_cons, State.setAcc_responses]
      omega

/-- Settles O22: `CRC.LOAD` sets the seed, the `CRC.BYTE`s fold their bytes in, and `CRC.READ` responds with the
result. -/
theorem crcUnitComputesCalc : Obligations.CrcUnitComputesCalc := by
  unfold Obligations.CrcUnitComputesCalc
  refine ⟨fun s seed bytes n => ?_, fun s bytes => ?_⟩
  · obtain ⟨t, hrun, hacc, hlen, hdecoder, hcfg, hinputs⟩ := execAll_crcByte bytes ((s.setAcc seed).respond .ok seed)
    have hread : execAll [.crcRead] t = .next (t.respond .ok t.acc) := execAll_cons_next _ _ _ _ (exec_crcRead t)
    refine ⟨t.respond .ok t.acc, ?_, hacc, ?_, ?_, hdecoder, hcfg, hinputs⟩
    · rw [expandPseudo, execAll_cons_next _ _ _ _ (exec_crcLoad seed s), execAll_append _ _ _ _ hrun, hread]
    · rw [hacc]
      rfl
    · rw [State.respond_responses, List.length_cons, hlen, State.respond_responses, List.length_cons,
        State.setAcc_responses]
      omega
  · obtain ⟨t, hrun, hacc, -, hdecoder, -⟩ := execAll_crcByte bytes s
    exact ⟨t, hrun, hacc, hdecoder⟩

end Sys2Proof.Machine
end

section
/-! SUPPORT. Family 'other', invariants: what is written in the payload buffer, the invariant phase by phase, its step
lemma and the one about the running CRC, and the statements that follow from the ways a byte can be consumed. -/

namespace Sys2Proof.Machine

/-! ### The payload in the buffer -/

theorem State.payload_zero (s : State) : s.payload 0 = [] := rfl

theorem State.payload_succ (s : State) (n : Nat) : s.payload (n + 1) = s.payload n ++ (s.pay.read n).toList := by
  rw [State.payload, List.range_succ, List.filterMap_append, List.filterMap_cons]
  cases s.pay.read n <;> rfl

theorem State.payload_congr {s t : State} {n : Nat} (h : ∀ i, i < n → s.pay.read i = t.pay.read i) :
    s.payload n = t.payload n :=
  List.filterMap_congr fun i hi => h i (List.mem_range.1 hi)

/-- Writing cell `n` appends the byte to the payload of the `n` cells before it. -/
theorem State.payload_of_write {s t : State} {n : Nat} {b : Byte} (ht : t.pay = s.pay.write n b) :
    t.payload (n + 1) = s.payload n ++ [b] := by
  rw [State.payload_succ, ht, Memory.read_write_same]
  refine congrArg (· ++ [b]) (State.payload_congr fun i hi => ?_)
  rw [ht, Memory.read_write_other _ _ _ _ (Nat.ne_of_lt hi)]

theorem State.written_of_write {s t : State} {n : Nat} {b : Byte} (hs : s.written n) (ht : t.pay = s.pay.write n b) :
    t.written (n + 1) := by
  intro i hi
  rw [ht]
  by_cases hin : i = n
  · rw [hin, Memory.read_write_same]; rfl
  · rw [Memory.read_write_other _ _ _ _ hin]
    exact hs i (by omega)

theorem State.length_payload {s : State} {n : Nat} (h : s.written n) : (s.payload n).length = n := by
  induction n with
  | zero => rfl
  | succ n ih =>
    obtain ⟨b, hb⟩ := Option.isSome_iff_exists.1 (h n (Nat.lt_succ_self n))
    rw [State.payload_succ, hb, List.length_append, ih fun i hi => h i (Nat.lt_succ_of_lt hi)]
    rfl

/-- The index of a cell that exists is raised without wrapping. -/
theorem index_succ_toNat {i : Byte} (hi : i.toNat < maxPayload) : (i + 1#8).toNat = i.toNat + 1 := by
  unfold maxPayload at hi
  bv_omega

/-! ### The invariant, phase by phase -/

/-- Outside FAILURE there is no reason (rule R24). -/
theorem State.Inv.reason_eq_none {s : State} (h : s.Inv) (hp : s.phase ≠ .failure) : s.reason = .none :=
  not_not.1 (mt h.reasonFailure.1 hp)

theorem inv_of_sync {s : State} (hwf : s.pay.wf = true) (hp : s.phase = .waitSync1 ∨ s.phase = .waitSync2)
    (hr : s.reason = .none) (hi : s.index = 0#8) : s.Inv := by
  obtain hp | hp := hp <;> constructor <;> simp [hwf, hp, hr, hi, State.payloadComplete_eq]

theorem inv_of_header {s : State} (hwf : s.pay.wf = true) (hp : s.phase = .readHeader) (hr : s.reason = .none)
    (hi : s.index.toNat ≤ 1) : s.Inv := by
  constructor <;> simp [hwf, hp, hr, hi, State.payloadComplete_eq, Phase.accumulating]

theorem inv_of_payload {s : State} (hwf : s.pay.wf = true) (hp : s.phase = .readPayload) (hr : s.reason = .none)
    (hi : s.index.toNat < s.hdrLen.toNat) (hw : s.written s.index.toNat)
    (ht : (typeSize s.cfg s.hdrType).isSome = true) : s.Inv := by
  constructor <;> simp [hwf, hp, hr, hi, hw, ht, State.payloadComplete_eq, Phase.accumulating]

theorem inv_of_crc {s : State} (hwf : s.pay.wf = true) (hp : s.phase = .verifyCrc) (hr : s.reason = .none)
    (hi : s.index.toNat ≤ 1) (hw : s.written s.hdrLen.toNat) (ht : (typeSize s.cfg s.hdrType).isSome = true) :
    s.Inv := by
  constructor <;> simp [hwf, hp, hr, hi, hw, ht, State.payloadComplete_eq, Phase.accumulating]

theorem inv_of_loaded {s : State} (hwf : s.pay.wf = true) (hp : s.phase = .loaded) (hr : s.reason = .none)
    (hi : s.index = 0#8) (hw : s.written s.hdrLen.toNat) (ht : (typeSize s.cfg s.hdrType).isSome = true)
    (hc : s.rxcrc = s.calcReg) : s.Inv := by
  constructor <;> simp [hwf, hp, hr, hi, hw, ht, hc]

theorem inv_of_checksum {s : State} (hwf : s.pay.wf = true) (hp : s.phase = .failure) (hr : s.reason = .checksum)
    (hi : s.index = 0#8) (hw : s.written s.hdrLen.toNat) (ht : (typeSize s.cfg s.hdrType).isSome = true)
    (hc : s.rxcrc ≠ s.calcReg) : s.Inv := by
  constructor <;> simp [hwf, hp, hr, hi, hw, ht, hc]

theorem inv_of_unknownType {s : State} (hwf : s.pay.wf = true) (hp : s.phase = .failure) (hr : s.reason = .unknownType)
    (hi : s.index = 0#8) (ht : typeSize s.cfg s.hdrType = none) : s.Inv := by
  constructor <;> simp [hwf, hp, hr, hi, ht, State.payloadComplete_eq]

/-! ### Both invariants speak of the decoder and the configuration alone -/

theorem eq_withContext_of_decoder_eq {s t : State} (h : t.decoder = s.decoder) :
    t = s.withContext t.cfg t.acc t.inputs t.responses := by
  obtain ⟨_, _, _, _, _, _, _, _, _, _, _, _⟩ := t
  cases h
  rfl

theorem inv_of_decoder_eq {s t : State} (h : s.Inv) (hd : t.decoder = s.decoder) (hc : t.cfg = s.cfg) : t.Inv := by
  rw [eq_withContext_of_decoder_eq hd, hc]
  exact ⟨h.payWf, h.reasonFailure, h.indexOutside, h.indexTwo, h.indexPayload, h.writtenSoFar, h.writtenAll, h.typeKnown,
    h.typeUnknown, h.crcEqual, h.crcDiffers⟩

theorem crcInv_of_decoder_eq {s t : State} (h : s.CrcInv) (hd : t.decoder = s.decoder) (hc : t.cfg = s.cfg) :
    t.CrcInv := by
  rw [eq_withContext_of_decoder_eq hd, hc]
  exact h

/-! ### The step lemma of the invariant -/

theorem Consumes.inv {b : Byte} {s t : State} (h : Consumes b s t) (hinv : s.Inv) : t.Inv := by
  have hwf := hinv.payWf
  have hsync (hp : s.phase = .waitSync1 ∨ s.phase = .waitSync2) : s.reason = .none ∧ s.index = 0#8 := by
    obtain hp | hp := hp
    · exact ⟨hinv.reason_eq_none (by rw [hp]; decide), hinv.indexOutside (by rw [hp]; rfl)⟩
    · exact ⟨hinv.reason_eq_none (by rw [hp]; decide), hinv.indexOutside (by rw [hp]; rfl)⟩
  have hwrite (hcell : s.index.toNat < maxPayload) : (s.pay.write s.index.toNat b).wf = true :=
    Memory.wf_write _ _ _ hwf hcell
  cases h with
  | discarded hp hb => exact hinv
  | syncBegun hp hb => exact inv_of_sync hwf (.inr rfl) (hsync (.inl hp)).1 (hsync (.inl hp)).2
  | syncDone hp hb => exact inv_of_header hwf rfl (hsync (.inr hp)).1 (Nat.zero_le 1)
  | syncAgain hp hb => exact inv_of_sync hwf (.inr rfl) (hsync (.inr hp)).1 (hsync (.inr hp)).2
  | syncLost hp h2 h1 => exact inv_of_sync hwf (.inl rfl) (hsync (.inr hp)).1 (hsync (.inr hp)).2
  | typeByte hp hi => exact inv_of_header hwf hp (hinv.reason_eq_none (by rw [hp]; decide)) (Nat.le_refl 1)
  | typeUnknown hp hi ht => exact inv_of_unknownType hwf rfl rfl rfl ht
  | lengthZero hp hi ht hb =>
    subst hb
    exact inv_of_crc hwf rfl (hinv.reason_eq_none (by rw [hp]; decide)) (Nat.zero_le 1)
      (fun i hi => absurd hi (Nat.not_lt_zero i)) ht
  | lengthByte hp hi ht hb =>
    have hpos : 0 < b.toNat := Nat.pos_of_ne_zero fun h0 => hb (BitVec.eq_of_toNat_eq h0)
    exact inv_of_payload hwf rfl (hinv.reason_eq_none (by rw [hp]; decide)) hpos
      (fun i hi => absurd hi (Nat.not_lt_zero i)) ht
  | payloadByte hp hcell hmore =>
    have hlt := hinv.indexPayload hp
    refine inv_of_payload (hwrite hcell) hp (hinv.reason_eq_none (by rw [hp]; decide)) ?_ ?_ (hinv.typeKnown (.inl hp))
    · have hne := mt (index_succ_eq_iff hcell).2 hmore
      show (s.index + 1#8).toNat < s.hdrLen.toNat
      rw [index_succ_toNat hcell]
      omega
    · show State.written _ (s.index + 1#8).toNat
      rw [index_succ_toNat hcell]
      exact State.written_of_write (hinv.writtenSoFar hp) rfl
  | payloadEnd hp hcell hlast =>
    refine inv_of_crc (hwrite hcell) rfl (hinv.reason_eq_none (by rw [hp]; decide)) (Nat.zero_le 1) ?_
      (hinv.typeKnown (.inl hp))
    show State.written _ s.hdrLen.toNat
    rw [← (index_succ_eq_iff hcell).1 hlast]
    exact State.written_of_write (hinv.writtenSoFar hp) rfl
  | crcLow hp hi =>
    exact inv_of_crc hwf hp (hinv.reason_eq_none (by rw [hp]; decide)) (Nat.le_refl 1) (hinv.writtenAll (.inl hp))
      (hinv.typeKnown (.inr (.inl hp)))
  | crcMatch hp hi hc =>
    exact inv_of_loaded hwf rfl (hinv.reason_eq_none (by rw [hp]; decide)) rfl (hinv.writtenAll (.inl hp))
      (hinv.typeKnown (.inr (.inl hp))) hc
  | crcMismatch hp hi hc =>
    exact inv_of_checksum hwf rfl rfl rfl (hinv.writtenAll (.inl hp)) (hinv.typeKnown (.inr (.inl hp))) hc

theorem exec_inv {i : Instr} {s t : State} (hinv : s.Inv) (h : exec i s = .next t) : t.Inv := by
  obtain ⟨-, v, rfl⟩ | ⟨-, rc, d, rfl⟩ | ⟨b, u, -, hu, rfl⟩ | ⟨-, -, rfl⟩ | ⟨-, rfl⟩ := exec_cases h
  · exact inv_of_decoder_eq hinv rfl rfl
  · exact inv_of_decoder_eq hinv rfl rfl
  · exact inv_of_decoder_eq (hu.inv hinv) rfl rfl
  · exact inv_of_sync hinv.payWf (.inl rfl) rfl rfl
  · exact inv_of_sync hinv.payWf (.inl rfl) rfl rfl

/-- Under the invariant a payload byte always has its cell (rule R129). -/
theorem State.Inv.cell_exists {s : State} (hinv : s.Inv) (hp : s.phase = .readPayload) : s.index.toNat < maxPayload :=
  lt_maxPayload_of_lt_byte (hinv.indexPayload hp)

/-- Under the invariant no operation stops. -/
theorem exec_completes {s : State} (hinv : s.Inv) (i : Instr) : ∃ t, exec i s = .next t := by
  cases i with
  | crcLoad seed => exact ⟨_, exec_crcLoad seed s⟩
  | crcByte b => exact ⟨_, exec_crcByte b s⟩
  | crcRead => exact ⟨_, exec_crcRead s⟩
  | decFeed b =>
    cases hheld : s.held with
    | true => exact ⟨_, exec_decFeed_of_held hheld b⟩
    | false =>
      obtain ⟨u, hu⟩ := exists_consumes hheld hinv.cell_exists b
      exact ⟨_, hu.exec_eq⟩
  | decAck =>
    by_cases hheld : s.held = true
    · exact ⟨_, exec_decAck_of_held hheld⟩
    · exact ⟨_, exec_decAck_of_not_held hheld⟩
  | decStatus => exact ⟨_, exec_decStatus s⟩
  | decHdr =>
    by_cases hheld : s.held = true
    · exact ⟨_, exec_decHdr_of_held hheld⟩
    · exact ⟨_, exec_decHdr_of_not_held hheld⟩
  | decPay k => exact exec_decPay_completes hinv k
  | decRxcrc =>
    by_cases hfull : s.payloadComplete = true
    · exact ⟨_, exec_decRxcrc_of_complete hfull⟩
    · exact ⟨_, exec_decRxcrc_of_not_complete hfull⟩
  | decCalc => exact ⟨_, exec_decCalc s⟩
  | decReset => exact ⟨_, exec_decReset s⟩

theorem inv_resetWith (cfg : Config) : (State.resetWith cfg).Inv := inv_of_sync Memory.wf_nil (.inl rfl) rfl rfl

theorem crcInv_of_sync {s : State} (hp : s.phase = .waitSync1 ∨ s.phase = .waitSync2) : s.CrcInv := by
  intro hcount
  obtain hp | hp := hp <;> simp [hp, Phase.accumulating, Phase.held] at hcount

theorem step_completes {s : State} (hinv : s.Inv) : ∃ t, step s = .next t := by
  cases hin : s.inputs with
  | nil => exact ⟨s, step_of_nil hin⟩
  | cons x rest =>
    cases x with
    | command w =>
      rw [step_of_command hin]
      cases hdec : decode w with
      | error e => exact ⟨_, runCommand_of_error ⟨e, hdec⟩ _⟩
      | ok i =>
        rw [runCommand_of_ok hdec]
        exact exec_completes (inv_of_decoder_eq hinv (t := s.setInputs rest) rfl rfl) i
    | reset => exact ⟨_, step_of_hardwareReset hin (.inl rfl)⟩
    | resetAndCommand w => exact ⟨_, step_of_hardwareReset hin (.inr ⟨w, rfl⟩)⟩

theorem step_inv {s t : State} (hinv : s.Inv) (h : step s = .next t) : t.Inv := by
  obtain ⟨-, rfl⟩ | ⟨w, rest, i, -, -, hexec⟩ | ⟨w, rest, e, -, -, rfl⟩ | ⟨x, rest, -, -, rfl⟩ := step_cases s t h
  · exact hinv
  · exact exec_inv (inv_of_decoder_eq hinv (t := s.setInputs rest) rfl rfl) hexec
  · exact inv_of_decoder_eq hinv rfl rfl
  · exact inv_of_decoder_eq (inv_resetWith s.cfg) rfl rfl

/-- Settles O44: no input and no operation stops under the invariant, and each way to consume a byte keeps it. -/
theorem stepKeepsInvariant : Obligations.StepKeepsInvariant := by
  unfold Obligations.StepKeepsInvariant
  intro s hinv
  obtain ⟨t, ht⟩ := step_completes hinv
  exact ⟨t, ht, step_inv hinv ht⟩

theorem inv_of_reachable {s : State} (h : Reachable s) : s.Inv := by
  induction h with
  | reset cfg => exact inv_resetWith cfg
  | send s more _ ih => exact inv_of_decoder_eq ih rfl rfl
  | step s t _ hstep ih => exact step_inv ih hstep

/-- Settles O46: every reachable state meets the invariant, by induction on the run. -/
theorem noRunStops : Obligations.NoRunStops := by
  unfold Obligations.NoRunStops
  exact fun s h => step_completes (inv_of_reachable h)

/-- Settles O43: a reset state scans for a sync, with no reason and with `INDEX = 0`. -/
theorem resetMeetsInvariants : Obligations.ResetMeetsInvariants := by
  unfold Obligations.ResetMeetsInvariants
  have hreset (cfg : Config) : (State.resetWith cfg).Inv ∧ (State.resetWith cfg).CrcInv :=
    ⟨inv_resetWith cfg, crcInv_of_sync (.inl rfl)⟩
  exact ⟨hreset, hreset Config.device⟩

/-! ### The running CRC (rules R28, R130) -/

/-- Where a byte is absorbed, the bytes consumed grow by it. -/
theorem crcInv_of_absorb {b : Byte} {s t : State} (hcrc : s.CrcInv) (hacc : s.phase.accumulating = true)
    (hcfg : t.cfg = s.cfg) (hcalc : t.calcReg = crcStep s.calcReg b) (hbytes : t.consumed = s.consumed ++ [b]) :
    t.CrcInv := by
  intro _
  rw [hcalc, hcfg, hbytes, crcCalc_append, ← hcrc (.inl hacc)]
  rfl

/-- Where no byte is absorbed, neither `CALC` nor the bytes consumed change. -/
theorem crcInv_of_keep {s t : State} (hcrc : s.CrcInv) (hacc : s.phase.accumulating = true) (hcfg : t.cfg = s.cfg)
    (hcalc : t.calcReg = s.calcReg) (hbytes : t.consumed = s.consumed) : t.CrcInv := by
  intro _
  rw [hcalc, hcfg, hbytes, ← hcrc (.inl hacc)]

/-! The bytes consumed, by phase. -/

theorem State.consumed_header0 {s : State} (hp : s.phase = .readHeader) (hi : s.index = 0#8) : s.consumed = [] := by
  simp [State.consumed, hp, hi]

theorem State.consumed_header1 {s : State} (hp : s.phase = .readHeader) (hi : s.index ≠ 0#8) :
    s.consumed = [s.hdrType] := by
  simp [State.consumed, hp, hi]

theorem State.consumed_payload {s : State} (hp : s.phase = .readPayload) :
    s.consumed = [s.hdrType, s.hdrLen] ++ s.payload s.index.toNat := by
  simp [State.consumed, hp]

theorem State.consumed_crc {s : State} (hp : s.phase = .verifyCrc) :
    s.consumed = [s.hdrType, s.hdrLen] ++ s.payload s.hdrLen.toNat := by
  simp [State.consumed, hp]

theorem Consumes.crcInv {b : Byte} {s t : State} (h : Consumes b s t) (hcrc : s.CrcInv) : t.CrcInv := by
  cases h with
  | discarded hp hb => exact hcrc
  | syncBegun hp hb => exact crcInv_of_sync (.inr rfl)
  | syncDone hp hb => exact fun _ => rfl
  | syncAgain hp hb => exact crcInv_of_sync (.inr rfl)
  | syncLost hp h2 h1 => exact crcInv_of_sync (.inl rfl)
  | typeByte hp hi =>
    refine crcInv_of_absorb hcrc (by rw [hp]; rfl) rfl rfl ?_
    rw [State.consumed_header0 hp hi, State.consumed_header1 (by exact hp) (by decide : (1#8 : Byte) ≠ 0#8)]
    rfl
  | typeUnknown hp hi ht =>
    refine crcInv_of_absorb hcrc (by rw [hp]; rfl) rfl rfl ?_
    rw [State.consumed_header1 hp hi]
    rfl
  | lengthZero hp hi ht hb =>
    subst hb
    refine crcInv_of_absorb hcrc (by rw [hp]; rfl) rfl rfl ?_
    rw [State.consumed_header1 hp hi]
    rfl
  | lengthByte hp hi ht hb =>
    refine crcInv_of_absorb hcrc (by rw [hp]; rfl) rfl rfl ?_
    rw [State.consumed_header1 hp hi]
    rfl
  | payloadByte hp hcell hmore =>
    refine crcInv_of_absorb hcrc (by rw [hp]; rfl) rfl rfl ?_
    rw [State.consumed_payload hp, State.consumed_payload (by exact hp), State.setIndex_index, index_succ_toNat hcell,
      State.payload_of_write (s := s) (n := s.index.toNat) (b := b) rfl]
    rfl
  | payloadEnd hp hcell hlast =>
    refine crcInv_of_absorb hcrc (by rw [hp]; rfl) rfl rfl ?_
    rw [State.consumed_payload hp, State.consumed_crc rfl]
    show [s.hdrType, s.hdrLen] ++ State.payload _ s.hdrLen.toNat = _
    rw [← (index_succ_eq_iff hcell).1 hlast, State.payload_of_write (s := s) (n := s.index.toNat) (b := b) rfl]
    rfl
  | crcLow hp hi =>
    refine crcInv_of_keep hcrc (by rw [hp]; rfl) rfl rfl ?_
    rw [State.consumed_crc hp, State.consumed_crc (by exact hp)]
    rfl
  | crcMatch hp hi hc =>
    refine crcInv_of_keep hcrc (by rw [hp]; rfl) rfl rfl ?_
    rw [State.consumed_crc hp]
    rfl
  | crcMismatch hp hi hc =>
    refine crcInv_of_keep hcrc (by rw [hp]; rfl) rfl rfl ?_
    rw [State.consumed_crc hp]
    rfl

theorem exec_crcInv {i : Instr} {s t : State} (hcrc : s.CrcInv) (h : exec i s = .next t) : t.CrcInv := by
  obtain ⟨-, v, rfl⟩ | ⟨-, rc, d, rfl⟩ | ⟨b, u, -, hu, rfl⟩ | ⟨-, -, rfl⟩ | ⟨-, rfl⟩ := exec_cases h
  · exact crcInv_of_decoder_eq hcrc rfl rfl
  · exact crcInv_of_decoder_eq hcrc rfl rfl
  · exact crcInv_of_decoder_eq (hu.crcInv hcrc) rfl rfl
  · exact crcInv_of_sync (.inl rfl)
  · exact crcInv_of_sync (.inl rfl)

/-- Settles O45: a byte that is absorbed joins the bytes consumed, and everything else keeps both or ends the frame. -/
theorem stepKeepsRunningCrc : Obligations.StepKeepsRunningCrc := by
  unfold Obligations.StepKeepsRunningCrc
  intro s t _ hcrc h
  obtain ⟨-, rfl⟩ | ⟨w, rest, i, -, -, hexec⟩ | ⟨w, rest, e, -, -, rfl⟩ | ⟨x, rest, -, -, rfl⟩ := step_cases s t h
  · exact hcrc
  · exact exec_crcInv (crcInv_of_decoder_eq hcrc (t := s.setInputs rest) rfl rfl) hexec
  · exact crcInv_of_decoder_eq hcrc rfl rfl
  · exact crcInv_of_sync (.inl rfl)

end Sys2Proof.Machine
end

section
/-! SUPPORT. Family 'other', statements about the ways a byte can be consumed: what a byte does inside a frame, how an
outcome is entered, which `STATUS` values occur, how a packet is read out, and what stale payload cells can do. -/

namespace Sys2Proof.Machine

/-- Inside a frame every byte either stays in it or ends it, and the CRC takes in all but the trailer (rules R82, R132). -/
theorem Consumes.inside_frame {b : Byte} {s t : State} (h : Consumes b s t) (hacc : s.phase.accumulating = true) :
    t.phase ≠ .waitSync1 ∧ t.phase ≠ .waitSync2 ∧
    (t.phase = .readHeader → s.phase = .readHeader ∧ s.index = 0#8 ∧ t.index = 1#8) ∧
    t.calcReg = if s.phase = .verifyCrc then s.calcReg else crcStep s.calcReg b := by
  cases h with
  | discarded hp | syncBegun hp | syncDone hp | syncAgain hp | syncLost hp => rw [hp] at hacc; cases hacc
  | typeByte hp hi => simp [hp, hi]
  | typeUnknown hp | lengthZero hp | lengthByte hp => simp [hp]
  | payloadByte hp | payloadEnd hp => simp [hp]
  | crcLow hp | crcMatch hp | crcMismatch hp => simp [hp]

/-- Settles O30: the decoder is not held, so it consumes the byte. -/
theorem noRestartInsideFrame : Obligations.NoRestartInsideFrame := by
  unfold Obligations.NoRestartInsideFrame
  intro s t b hacc h
  obtain ⟨hheld, -⟩ | ⟨u, hu, rfl⟩ := exec_decFeed_cases h
  · exact absurd ((not_held_of_accumulating hacc).symm.trans hheld) Bool.false_ne_true
  · exact hu.inside_frame hacc

/-! ### Entry of an outcome (rules R170, R171, R177) -/

/-- The byte is the high trailer byte, and the outcome is that of the comparison. -/
def EntersByTrailer (b : Byte) (s t : State) : Prop :=
  s.phase = .verifyCrc ∧ s.index = 1#8 ∧ t.rxcrc = b ++ s.rxcrc.extractLsb' 0 8 ∧ t.calcReg = s.calcReg ∧
    t.hdrType = s.hdrType ∧ t.hdrLen = s.hdrLen ∧ t.pay = s.pay ∧
    (t.phase = .loaded ∧ t.reason = .none ∧ t.rxcrc = t.calcReg ∨
      t.phase = .failure ∧ t.reason = .checksum ∧ t.rxcrc ≠ t.calcReg)

/-- The byte is the length byte of a frame whose type is not recognised. -/
def EntersByType (b : Byte) (s t : State) : Prop :=
  s.phase = .readHeader ∧ s.index = 1#8 ∧ t.phase = .failure ∧ t.reason = .unknownType ∧ t.hdrType = s.hdrType ∧
    t.hdrLen = b ∧ t.calcReg = crcStep s.calcReg b ∧ typeSize t.cfg t.hdrType = none

theorem Consumes.enters {b : Byte} {s t : State} (h : Consumes b s t) (hinv : s.Inv) (hheld : t.held = true) :
    (EntersByTrailer b s t ∨ EntersByType b s t) ∧ t.index = 0#8 := by
  have hone (hp : s.phase = .readHeader ∨ s.phase = .verifyCrc) (hi : s.index ≠ 0#8) : s.index = 1#8 := by
    have hle := hinv.indexTwo hp
    bv_omega
  cases h with
  | discarded hp hb | typeByte hp hi | payloadByte hp hcell hmore | crcLow hp hi =>
    simp [hp, Phase.held] at hheld
  | syncBegun | syncDone | syncAgain | syncLost | lengthZero | lengthByte | payloadEnd => cases hheld
  | typeUnknown hp hi ht => exact ⟨.inr ⟨hp, hone (.inl hp) hi, rfl, rfl, rfl, rfl, rfl, ht⟩, rfl⟩
  | crcMatch hp hi hc =>
    have hreason := hinv.reason_eq_none (by rw [hp]; decide)
    exact ⟨.inl ⟨hp, hone (.inr hp) hi, rfl, rfl, rfl, rfl, rfl, .inl ⟨rfl, hreason, hc⟩⟩, rfl⟩
  | crcMismatch hp hi hc =>
    exact ⟨.inl ⟨hp, hone (.inr hp) hi, rfl, rfl, rfl, rfl, rfl, .inr ⟨rfl, rfl, hc⟩⟩, rfl⟩

/-- Settles O33: of the steps from a state that is not held, only a `DEC.FEED` that consumes its byte can lead to a held
one. -/
theorem outcomeEntry : Obligations.OutcomeEntry := by
  unfold Obligations.OutcomeEntry
  intro s t hinv h hfree hheld
  have hkept (hd : t.decoder = s.decoder) : False :=
    Bool.false_ne_true (hfree.symm.trans ((State.held_eq_of_decoder_eq hd).symm.trans hheld))
  obtain ⟨-, rfl⟩ | ⟨w, rest, i, hin, hdec, hexec⟩ | ⟨w, rest, e, -, -, rfl⟩ | ⟨x, rest, -, -, rfl⟩ := step_cases s t h
  · exact (hkept rfl).elim
  · obtain ⟨-, v, rfl⟩ | ⟨-, rc, d, rfl⟩ | ⟨b, u, rfl, hu, rfl⟩ | ⟨-, -, rfl⟩ | ⟨-, rfl⟩ := exec_cases hexec
    · exact (hkept rfl).elim
    · exact (hkept rfl).elim
    · obtain ⟨henters, hindex⟩ := hu.enters (inv_of_decoder_eq hinv rfl rfl) hheld
      obtain ⟨-, -, -, hresp⟩ := hu.frame
      exact ⟨⟨w, rest, b, hin, hdec, henters⟩, hindex, congrArg _ hresp⟩
    · cases hheld
    · cases hheld
  · exact (hkept rfl).elim
  · cases hheld

/-! ### The values of `STATUS` (rule R33) -/

/-- Settles O32: the phase fixes `REASON` and `INDEX`, or bounds them, and so the two bytes of `STATUS`. -/
theorem statusValuesThatOccur : Obligations.StatusValuesThatOccur := by
  unfold Obligations.StatusValuesThatOccur
  intro s hinv
  have hstatus := status_eq_index_append s
  have htwo (hp : s.phase = .readHeader ∨ s.phase = .verifyCrc) : s.index = 0#8 ∨ s.index = 1#8 := by
    have hle := hinv.indexTwo hp
    bv_omega
  cases hp : s.phase with
  | waitSync1 =>
    rw [hp, hinv.reason_eq_none (by rw [hp]; decide), hinv.indexOutside (by rw [hp]; rfl)] at hstatus
    exact .inl ⟨rfl, hstatus⟩
  | waitSync2 =>
    rw [hp, hinv.reason_eq_none (by rw [hp]; decide), hinv.indexOutside (by rw [hp]; rfl)] at hstatus
    exact .inr (.inl ⟨rfl, hstatus⟩)
  | readHeader =>
    rw [hp, hinv.reason_eq_none (by rw [hp]; decide)] at hstatus
    refine .inr (.inr (.inl ⟨rfl, ?_⟩))
    exact (htwo (.inl hp)).imp (fun hi => by rw [hstatus, hi]; rfl) (fun hi => by rw [hstatus, hi]; rfl)
  | readPayload =>
    rw [hp, hinv.reason_eq_none (by rw [hp]; decide)] at hstatus
    exact .inr (.inr (.inr (.inl ⟨rfl, s.index, hinv.indexPayload hp, hstatus⟩)))
  | verifyCrc =>
    rw [hp, hinv.reason_eq_none (by rw [hp]; decide)] at hstatus
    refine .inr (.inr (.inr (.inr (.inl ⟨rfl, ?_⟩))))
    exact (htwo (.inr hp)).imp (fun hi => by rw [hstatus, hi]; rfl) (fun hi => by rw [hstatus, hi]; rfl)
  | loaded =>
    rw [hp, hinv.reason_eq_none (by rw [hp]; decide), hinv.indexOutside (by rw [hp]; rfl)] at hstatus
    exact .inr (.inr (.inr (.inr (.inr (.inl ⟨rfl, hstatus⟩)))))
  | failure =>
    rw [hp, hinv.indexOutside (by rw [hp]; rfl)] at hstatus
    refine .inr (.inr (.inr (.inr (.inr (.inr ⟨rfl, ?_⟩)))))
    cases hr : s.reason with
    | none => exact absurd hr (hinv.reasonFailure.2 hp)
    | unknownType => rw [hstatus, hr]; exact .inl rfl
    | checksum => rw [hstatus, hr]; exact .inr rfl

/-! ### Reading a packet out (rules R79, R153) -/

/-- The response to a read of a payload byte. -/
def payResponse (b : Byte) : Word := respWord .ok (zext16 b)

/-- Reads of written cells below `HDR_LEN` respond with their bytes, in order, and change nothing else. -/
theorem execAll_decPay (cells : List Nat) (s : State) (hfull : s.payloadComplete = true) (hw : s.written s.hdrLen.toNat)
    (hcells : ∀ i ∈ cells, i < s.hdrLen.toNat) :
    execAll (cells.map fun i => .decPay (BitVec.ofNat 8 i)) s =
      .next { s with responses := ((cells.filterMap s.pay.read).map payResponse).reverse ++ s.responses } := by
  induction cells generalizing s with
  | nil => rfl
  | cons i rest ih =>
    have hi : i < s.hdrLen.toNat := hcells i (List.mem_cons_self ..)
    have hval : (BitVec.ofNat 8 i).toNat = i := by
      have hlen := s.hdrLen.isLt
      rw [BitVec.toNat_ofNat, Nat.mod_eq_of_lt (by omega)]
    obtain ⟨b, hb⟩ := Option.isSome_iff_exists.1 (hw i hi)
    have hread : exec (.decPay (BitVec.ofNat 8 i)) s = .next (s.respond .ok (zext16 b)) :=
      exec_decPay_of_read hfull (by rw [hval]; exact hi) (by rw [hval]; exact hb)
    have hrest := ih (s.respond .ok (zext16 b)) hfull hw fun j hj => hcells j (List.mem_cons_of_mem i hj)
    rw [List.map_cons, execAll_cons_next _ _ _ _ hread, hrest, List.filterMap_cons, hb, List.map_cons,
      List.reverse_cons, List.append_assoc]
    rfl

/-- Settles O41: `DEC.HDR` of a held decoder, and then reads of the cells that the invariant says were written. -/
theorem readPacketReturnsFrame : Obligations.ReadPacketReturnsFrame := by
  unfold Obligations.ReadPacketReturnsFrame
  intro s hinv hfull
  have hw := hinv.writtenAll (.inr hfull)
  have hheld : s.held = true := by
    obtain hp | ⟨hp, -⟩ := (payloadComplete_iff_phase s).1 hfull
    · exact (held_iff_phase s).2 (.inl hp)
    · exact (held_iff_phase s).2 (.inr hp)
  refine ⟨State.length_payload hw, ?_⟩
  rw [expandPseudo, execAll_cons_next _ _ _ _ (exec_decHdr_of_held hheld)]
  exact execAll_decPay (List.range s.hdrLen.toNat) _ hfull hw fun i hi => List.mem_range.1 hi

/-! ### Stale payload cells (rules R26, R30) -/

/-- The cells that hold bytes of the frame, in the states that have any. -/
theorem State.liveCells_of_complete {s : State} (h : s.payloadComplete = true) : s.liveCells = s.hdrLen.toNat := by
  obtain hp | ⟨hp, hr⟩ := (payloadComplete_iff_phase s).1 h
  · rw [State.liveCells, hp]
  · rw [State.liveCells, hp]; exact if_pos hr

theorem State.liveCells_payload {s : State} (hp : s.phase = .readPayload) : s.liveCells = s.index.toNat := by
  rw [State.liveCells, hp]

theorem State.liveCells_crc {s : State} (hp : s.phase = .verifyCrc) : s.liveCells = s.hdrLen.toNat := by
  rw [State.liveCells, hp]

/-- A buffer may replace that of `s` when it agrees on the cells that hold bytes of the frame. -/
def State.LiveAgree (s : State) (m : Memory) : Prop := ∀ i, i < s.liveCells → s.pay.read i = m.read i

theorem sameButStale_iff {s t : State} : SameButStale s t ↔ t = s.setPay t.pay ∧ s.LiveAgree t.pay :=
  and_congr_left fun _ => eq_comm

theorem liveAgree_of_no_live {s : State} {m : Memory} (h : s.liveCells = 0) : s.LiveAgree m :=
  fun i hi => absurd hi (by rw [h]; exact Nat.not_lt_zero i)

/-- A write to cell `n` extends an agreement on the cells below `n` to cell `n`. -/
theorem read_write_agree {m m' : Memory} {n : Nat} {b : Byte} (h : ∀ i, i < n → m.read i = m'.read i) (i : Nat)
    (hi : i < n + 1) : (m.write n b).read i = (m'.write n b).read i := by
  by_cases hin : i = n
  · rw [hin, Memory.read_write_same, Memory.read_write_same]
  · rw [Memory.read_write_other _ _ _ _ hin, Memory.read_write_other _ _ _ _ hin]
    exact h i (by omega)

/-- A byte is consumed alike over any buffer that agrees on the live cells, and the results agree on theirs. -/
theorem Consumes.setPay {b : Byte} {s u : State} (h : Consumes b s u) {m : Memory} (hlive : s.LiveAgree m) :
    ∃ m', Consumes b (s.setPay m) (u.setPay m') ∧ u.LiveAgree m' := by
  have hnone (hp : u.phase = .waitSync1 ∨ u.phase = .waitSync2 ∨ u.phase = .readHeader) : u.LiveAgree m := by
    refine liveAgree_of_no_live ?_
    obtain hp | hp | hp := hp <;> rw [State.liveCells, hp]
  cases h with
  | discarded hp hb => exact ⟨m, .discarded hp hb, hlive⟩
  | syncBegun hp hb => exact ⟨m, .syncBegun hp hb, hnone (.inr (.inl rfl))⟩
  | syncDone hp hb => exact ⟨m, .syncDone hp hb, hnone (.inr (.inr rfl))⟩
  | syncAgain hp hb => exact ⟨m, .syncAgain hp hb, hnone (.inr (.inl rfl))⟩
  | syncLost hp h2 h1 => exact ⟨m, .syncLost hp h2 h1, hnone (.inl rfl)⟩
  | typeByte hp hi => exact ⟨m, .typeByte hp hi, hnone (.inr (.inr hp))⟩
  | typeUnknown hp hi ht => exact ⟨m, .typeUnknown hp hi ht, liveAgree_of_no_live rfl⟩
  | lengthZero hp hi ht hb => subst hb; exact ⟨m, .lengthZero hp hi ht rfl, liveAgree_of_no_live rfl⟩
  | lengthByte hp hi ht hb => exact ⟨m, .lengthByte hp hi ht hb, liveAgree_of_no_live rfl⟩
  | payloadByte hp hcell hmore =>
    have hbelow : ∀ i, i < s.index.toNat → s.pay.read i = m.read i := by
      rw [State.LiveAgree, State.liveCells_payload hp] at hlive; exact hlive
    refine ⟨m.write s.index.toNat b, .payloadByte hp hcell hmore, fun i hi => read_write_agree hbelow i ?_⟩
    rw [State.liveCells_payload (by exact hp)] at hi
    exact index_succ_toNat hcell ▸ hi
  | payloadEnd hp hcell hlast =>
    have hbelow : ∀ i, i < s.index.toNat → s.pay.read i = m.read i := by
      rw [State.LiveAgree, State.liveCells_payload hp] at hlive; exact hlive
    refine ⟨m.write s.index.toNat b, .payloadEnd hp hcell hlast, fun i hi => read_write_agree hbelow i ?_⟩
    rw [(index_succ_eq_iff hcell).1 hlast]
    exact hi
  | crcLow hp hi =>
    rw [State.LiveAgree, State.liveCells_crc hp] at hlive
    refine ⟨m, .crcLow hp hi, ?_⟩
    rw [State.LiveAgree, State.liveCells_crc (by exact hp)]
    exact hlive
  | crcMatch hp hi hc =>
    rw [State.LiveAgree, State.liveCells_crc hp] at hlive
    exact ⟨m, .crcMatch hp hi hc, hlive⟩
  | crcMismatch hp hi hc =>
    rw [State.LiveAgree, State.liveCells_crc hp] at hlive
    exact ⟨m, .crcMismatch hp hi hc, hlive⟩

/-- An operation works alike over any buffer that agrees on the live cells, and the results agree on theirs. -/
theorem exec_setPay {i : Instr} {s u : State} (h : exec i s = .next u) {m : Memory} (hlive : s.LiveAgree m) :
    ∃ m', exec i (s.setPay m) = .next (u.setPay m') ∧ u.LiveAgree m' := by
  cases i with
  | crcLoad seed => cases h; exact ⟨m, rfl, hlive⟩
  | crcByte b => cases h; exact ⟨m, rfl, hlive⟩
  | crcRead => cases h; exact ⟨m, rfl, hlive⟩
  | decFeed b =>
    obtain ⟨hheld, rfl⟩ | ⟨v, hv, rfl⟩ := exec_decFeed_cases h
    · exact ⟨m, exec_decFeed_of_held (s := s.setPay m) hheld b, hlive⟩
    · obtain ⟨m', hv', hlive'⟩ := hv.setPay hlive
      exact ⟨m', hv'.exec_eq, hlive'⟩
  | decAck =>
    by_cases hheld : s.held = true
    · rw [exec_decAck_of_held hheld] at h; cases h
      exact ⟨m, exec_decAck_of_held (s := s.setPay m) hheld, liveAgree_of_no_live rfl⟩
    · rw [exec_decAck_of_not_held hheld] at h; cases h
      exact ⟨m, exec_decAck_of_not_held (s := s.setPay m) hheld, hlive⟩
  | decStatus => cases h; exact ⟨m, rfl, hlive⟩
  | decHdr =>
    by_cases hheld : s.held = true
    · rw [exec_decHdr_of_held hheld] at h; cases h
      exact ⟨m, exec_decHdr_of_held (s := s.setPay m) hheld, hlive⟩
    · rw [exec_decHdr_of_not_held hheld] at h; cases h
      exact ⟨m, exec_decHdr_of_not_held (s := s.setPay m) hheld, hlive⟩
  | decPay k =>
    obtain ⟨hfull, hlt, -, b, hread, rfl⟩ | ⟨hguard, rfl⟩ := execDecPay_cases k s u h
    · have hread' : m.read k.toNat = some b := by
        rw [← hlive k.toNat (by rw [State.liveCells_of_complete hfull]; exact hlt)]; exact hread
      exact ⟨m, exec_decPay_of_read (s := s.setPay m) hfull hlt hread', hlive⟩
    · exact ⟨m, exec_decPay_of_not_readable (s := s.setPay m) hguard, hlive⟩
  | decRxcrc =>
    by_cases hfull : s.payloadComplete = true
    · rw [exec_decRxcrc_of_complete hfull] at h; cases h
      exact ⟨m, exec_decRxcrc_of_complete (s := s.setPay m) hfull, hlive⟩
    · rw [exec_decRxcrc_of_not_complete hfull] at h; cases h
      exact ⟨m, exec_decRxcrc_of_not_complete (s := s.setPay m) hfull, hlive⟩
  | decCalc => cases h; exact ⟨m, rfl, hlive⟩
  | decReset =>
    rw [exec_decReset] at h; cases h
    exact ⟨m, exec_decReset (s.setPay m), liveAgree_of_no_live rfl⟩

/-- A step works alike over any buffer that agrees on the live cells, and the results agree on theirs. -/
theorem step_setPay {s s' : State} (h : step s = .next s') {m : Memory} (hlive : s.LiveAgree m) :
    ∃ m', step (s.setPay m) = .next (s'.setPay m') ∧ s'.LiveAgree m' := by
  obtain ⟨hin, rfl⟩ | ⟨w, rest, i, hin, hdec, hexec⟩ | ⟨w, rest, e, hin, hdec, rfl⟩ | ⟨x, rest, hin, hx, rfl⟩ :=
    step_cases s s' h
  · exact ⟨m, step_of_nil (s := s'.setPay m) hin, hlive⟩
  · obtain ⟨m', hexec', hlive'⟩ := exec_setPay hexec (m := m) hlive
    refine ⟨m', ?_, hlive'⟩
    rw [step_of_command (s := s.setPay m) hin, runCommand_of_ok hdec]
    exact hexec'
  · refine ⟨m, ?_, hlive⟩
    rw [step_of_command (s := s.setPay m) hin, runCommand, hdec]
    rfl
  · exact ⟨[], step_of_hardwareReset (s := s.setPay m) hin hx, liveAgree_of_no_live rfl⟩

/-- Settles O48: the second state is the first with another buffer, which agrees on the live cells. -/
theorem staleCellsAreInvisible : Obligations.StaleCellsAreInvisible := by
  unfold Obligations.StaleCellsAreInvisible
  intro s t s' hsame h
  obtain ⟨ht, hlive⟩ := sameButStale_iff.1 hsame
  obtain ⟨m', hstep, hlive'⟩ := step_setPay h hlive
  exact ⟨s'.setPay m', by rw [ht]; exact hstep, rfl, hlive'⟩

end Sys2Proof.Machine
end

section
/-! SUPPORT. Family 'other', runs of `DEC.FEED`: what a stream of bytes leads to, section by section of a frame, and the
statements about payload length, earlier frames and the recovery bound. -/

namespace Sys2Proof.Machine

/-! ### Streams of bytes -/

theorem feedAll_cons_next_iff {b : Byte} {bytes : List Byte} {s t : State} :
    feedAll (b :: bytes) s = .next t ↔ ∃ u, exec (.decFeed b) s = .next u ∧ feedAll bytes u = .next t :=
  execAll_cons_next_iff

theorem feedAll_append {as bs : List Byte} {s u : State} (h : feedAll as s = .next u) :
    feedAll (as ++ bs) s = feedAll bs u := by
  rw [feedAll, List.map_append]
  exact execAll_append _ _ _ _ h

/-- A byte that is consumed, and then the rest. -/
theorem Consumes.feedAll_cons {b : Byte} {s u : State} (h : Consumes b s u) (bytes : List Byte) :
    feedAll (b :: bytes) s = feedAll bytes (u.respondStatus .ok) :=
  execAll_cons_next _ _ _ _ h.exec_eq

/-- What every `DEC.FEED` keeps, a stream of them keeps. -/
theorem feedAll_induction {P : State → Prop} (hstep : ∀ b s t, P s → exec (.decFeed b) s = .next t → P t)
    {bytes : List Byte} {s t : State} (hs : P s) (h : feedAll bytes s = .next t) : P t := by
  induction bytes generalizing s with
  | nil => cases h; exact hs
  | cons b rest ih =>
    obtain ⟨u, hexec, hrest⟩ := feedAll_cons_next_iff.1 h
    exact ih (hstep b s u hs hexec) hrest

theorem feedAll_inv {bytes : List Byte} {s t : State} (hinv : s.Inv) (h : feedAll bytes s = .next t) : t.Inv :=
  feedAll_induction (fun _ _ _ hs hexec => exec_inv hs hexec) hinv h

theorem feedAll_crcInv {bytes : List Byte} {s t : State} (hcrc : s.CrcInv) (h : feedAll bytes s = .next t) : t.CrcInv :=
  feedAll_induction (fun _ _ _ hs hexec => exec_crcInv hs hexec) hcrc h

theorem feedAll_cfg {bytes : List Byte} {s t : State} (h : feedAll bytes s = .next t) : t.cfg = s.cfg :=
  feedAll_induction (P := fun u => u.cfg = s.cfg) (fun _ _ _ hs hexec => (exec_frame hexec).1.trans hs) rfl h

theorem feedAll_completes {s : State} (hinv : s.Inv) (bytes : List Byte) : ∃ t, feedAll bytes s = .next t := by
  induction bytes generalizing s with
  | nil => exact ⟨s, rfl⟩
  | cons b rest ih =>
    obtain ⟨u, hexec⟩ := exec_completes hinv (.decFeed b)
    obtain ⟨t, hrest⟩ := ih (exec_inv hinv hexec)
    exact ⟨t, feedAll_cons_next_iff.2 ⟨u, hexec, hrest⟩⟩

/-- A held decoder stays as it is under any stream (rule R131). -/
theorem feedAll_of_held {bytes : List Byte} {s t : State} (hheld : s.held = true) (h : feedAll bytes s = .next t) :
    t.decoder = s.decoder := by
  refine feedAll_induction (P := fun u => u.decoder = s.decoder) (fun b u v hu hexec => ?_) rfl h
  have hheld' : u.held = true := (State.held_eq_of_decoder_eq hu).trans hheld
  rw [exec_decFeed_of_held hheld'] at hexec
  cases hexec
  exact hu

/-! ### The payload (rules R126, R127) -/

/-- A payload byte that is not the last: the run goes on from the next cell. -/
theorem feedAll_payloadByte {b : Byte} {s : State} (rest : List Byte) (hp : s.phase = .readPayload)
    (hcell : s.index.toNat < maxPayload) (hmore : s.index + 1#8 ≠ s.hdrLen) :
    ∃ u, feedAll (b :: rest) s = feedAll rest u ∧ u.phase = .readPayload ∧ u.index.toNat = s.index.toNat + 1 ∧
      u.hdrType = s.hdrType ∧ u.hdrLen = s.hdrLen ∧ u.payload (s.index.toNat + 1) = s.payload s.index.toNat ++ [b] :=
  ⟨_, (Consumes.payloadByte hp hcell hmore).feedAll_cons rest, hp, index_succ_toNat hcell, rfl, rfl,
    State.payload_of_write rfl⟩

/-- From READ_PAYLOAD on, bytes up to `HDR_LEN` are stored in order, and the last of `HDR_LEN` leads on. -/
theorem feedAll_payload (bytes : List Byte) (s : State) (hp : s.phase = .readPayload)
    (hi : s.index.toNat < s.hdrLen.toNat) (hlen : s.index.toNat + bytes.length ≤ s.hdrLen.toNat) :
    ∃ t, feedAll bytes s = .next t ∧ t.hdrType = s.hdrType ∧ t.hdrLen = s.hdrLen ∧
      t.payload (s.index.toNat + bytes.length) = s.payload s.index.toNat ++ bytes ∧
      (s.index.toNat + bytes.length < s.hdrLen.toNat →
        t.phase = .readPayload ∧ t.index.toNat = s.index.toNat + bytes.length) ∧
      (s.index.toNat + bytes.length = s.hdrLen.toNat → t.phase = .verifyCrc ∧ t.index = 0#8) := by
  induction bytes generalizing s with
  | nil =>
    exact ⟨s, rfl, rfl, rfl, (List.append_nil _).symm, fun _ => ⟨hp, rfl⟩, fun heq => absurd heq (Nat.ne_of_lt hi)⟩
  | cons b rest ih =>
    have hcell : s.index.toNat < maxPayload := lt_maxPayload_of_lt_byte hi
    rw [List.length_cons] at hlen ⊢
    by_cases hlast : s.index + 1#8 = s.hdrLen
    · have hend := (index_succ_eq_iff hcell).1 hlast
      have hrest : rest = [] := List.length_eq_zero_iff.1 (by omega)
      subst hrest
      refine ⟨_, (Consumes.payloadEnd hp hcell hlast).feedAll_cons [], rfl, rfl, State.payload_of_write rfl,
        fun hlt => ?_, fun _ => ⟨rfl, rfl⟩⟩
      rw [List.length_nil] at hlt
      omega
    · have hne := mt (index_succ_eq_iff hcell).2 hlast
      obtain ⟨u, hstep, hup, hui, hutype, hulen, hupay⟩ := feedAll_payloadByte (b := b) rest hp hcell hlast
      have hcount : s.index.toNat + (rest.length + 1) = u.index.toNat + rest.length := by omega
      obtain ⟨t, hrun, htype, hhdr, hpay, hends⟩ := ih u hup (by rw [hulen]; omega) (by rw [hulen]; omega)
      rw [hcount, ← hulen]
      refine ⟨t, hstep.trans hrun, htype.trans hutype, hhdr, ?_, hends⟩
      rw [hpay, hui, hupay, List.append_assoc]
      rfl

/-- Settles O29: the payload by induction over its bytes; a zero length byte leads on at once; and consuming a byte reads
of the type table which codes are recognised. -/
theorem payloadCountIsLengthField : Obligations.PayloadCountIsLengthField := by
  unfold Obligations.PayloadCountIsLengthField
  refine ⟨fun s bytes hp hi hlen hne => ?_, fun s hp hi ht => ?_, fun s c b hseed hcodes => ?_⟩
  · have hpos : 0 < bytes.length := List.length_pos_iff.2 hne
    have hzero : s.index.toNat = 0 := by rw [hi]; rfl
    obtain ⟨t, hrun, -, hhdr, hpay, hmore, hdone⟩ := feedAll_payload bytes s hp (by omega) (by omega)
    rw [hzero, Nat.zero_add] at hpay hmore hdone
    exact ⟨t, hrun, hhdr, hpay, hmore, hdone⟩
  · exact ⟨_, (Consumes.lengthZero hp hi ht rfl).exec_eq, rfl⟩
  · cases hheld : s.held with
    | true => rw [exec_decFeed_of_held hheld]; exact exec_decFeed_of_held (s := { s with cfg := c }) hheld b
    | false =>
      by_cases hcell : s.phase = .readPayload → s.index.toNat < maxPayload
      · obtain ⟨u, hu⟩ := exists_consumes hheld hcell b
        obtain ⟨-, hacc, hinputs, hresp⟩ := hu.frame
        have hother := (hu.context hseed hcodes u.acc u.inputs u.responses).exec_eq
        rw [hu.exec_eq]
        rw [show s.withContext c u.acc u.inputs u.responses = { s with cfg := c } by rw [hacc, hinputs, hresp]; rfl]
          at hother
        exact hother
      · obtain ⟨hp, hi⟩ := Classical.not_imp.1 hcell
        rw [exec_decFeed_noCell hp hi]
        exact exec_decFeed_noCell (s := { s with cfg := c }) hp hi b

/-! ### Two decoders that scan (rule R133) -/

/-- Two states that answer every further stream of bytes alike: they agree on `PHASE`, `REASON` and `INDEX`, and in each
phase on the registers that a later byte can still bring to light. -/
structure FeedAlike (s t : State) : Prop where
  cfg : t.cfg = s.cfg
  responses : t.responses = s.responses
  phase : t.phase = s.phase
  reason : t.reason = s.reason
  index : t.index = s.index
  calcReg : s.phase.accumulating = true → t.calcReg = s.calcReg
  hdrType : s.phase = .readHeader → s.index ≠ 0#8 → t.hdrType = s.hdrType
  hdrLen : s.phase = .readPayload → t.hdrLen = s.hdrLen
  rxLow : s.phase = .verifyCrc → s.index ≠ 0#8 → lowByte t.rxcrc = lowByte s.rxcrc

theorem FeedAlike.status {s t : State} (h : FeedAlike s t) : t.status = s.status := by
  rw [State.status_eq, State.status_eq, h.phase, h.reason, h.index]

theorem FeedAlike.respondStatus {s t : State} (h : FeedAlike s t) (rc : RespCode) :
    FeedAlike (s.respondStatus rc) (t.respondStatus rc) where
  cfg := h.cfg
  responses := by
    show respWord rc t.status :: t.responses = respWord rc s.status :: s.responses
    rw [h.status, h.responses]
  phase := h.phase
  reason := h.reason
  index := h.index
  calcReg := h.calcReg
  hdrType := h.hdrType
  hdrLen := h.hdrLen
  rxLow := h.rxLow

theorem lowByte_packBytes (hi lo : Byte) : lowByte (packBytes hi lo) = lo := BitVec.extractLsb'_append_eq_right

theorem FeedAlike.consumes {b : Byte} {s t s' : State} (h : FeedAlike s t) (hs : Consumes b s s') :
    ∃ t', Consumes b t t' ∧ FeedAlike s' t' := by
  obtain ⟨hcfg, hresp, hphase, hreason, hindex, hcalc, htype, hlen, hrx⟩ := h
  cases hs with
  | discarded hp hb =>
    exact ⟨t, .discarded (hphase.trans hp) hb, ⟨hcfg, hresp, hphase, hreason, hindex, hcalc, htype, hlen, hrx⟩⟩
  | syncBegun hp hb =>
    refine ⟨_, .syncBegun (hphase.trans hp) hb, ?_⟩
    constructor <;> simp [hcfg, hresp, hreason, hindex, Phase.accumulating]
  | syncDone hp hb =>
    refine ⟨_, .syncDone (hphase.trans hp) hb, ?_⟩
    constructor <;> simp [hcfg, hresp, hreason]
  | syncAgain hp hb =>
    refine ⟨_, .syncAgain (hphase.trans hp) hb, ?_⟩
    constructor <;> simp [hcfg, hresp, hreason, hindex, Phase.accumulating]
  | syncLost hp h2 h1 =>
    refine ⟨_, .syncLost (hphase.trans hp) h2 h1, ?_⟩
    constructor <;> simp [hcfg, hresp, hreason, hindex, Phase.accumulating]
  | typeByte hp hi =>
    have hcalc' := hcalc (by rw [hp]; rfl)
    refine ⟨_, .typeByte (hphase.trans hp) (hindex.trans hi), ?_⟩
    constructor <;> simp [hcfg, hresp, hphase, hreason, hcalc', hp]
  | typeUnknown hp hi ht =>
    have htype' := htype hp hi
    have hcalc' := hcalc (by rw [hp]; rfl)
    refine ⟨_, .typeUnknown (hphase.trans hp) (hindex ▸ hi) (by rw [hcfg, htype', ht]), ?_⟩
    constructor <;> simp [hcfg, hresp, hcalc']
  | lengthZero hp hi ht hb =>
    have htype' := htype hp hi
    have hcalc' := hcalc (by rw [hp]; rfl)
    refine ⟨_, .lengthZero (hphase.trans hp) (hindex ▸ hi) (by rw [hcfg, htype', ht]) hb, ?_⟩
    constructor <;> simp [hcfg, hresp, hreason, hcalc']
  | lengthByte hp hi ht hb =>
    have htype' := htype hp hi
    have hcalc' := hcalc (by rw [hp]; rfl)
    refine ⟨_, .lengthByte (hphase.trans hp) (hindex ▸ hi) (by rw [hcfg, htype', ht]) hb, ?_⟩
    constructor <;> simp [hcfg, hresp, hreason, hcalc']
  | payloadByte hp hcell hmore =>
    have hlen' := hlen hp
    have hcalc' := hcalc (by rw [hp]; rfl)
    refine ⟨_, .payloadByte (hphase.trans hp) (hindex ▸ hcell) (by rw [hindex, hlen']; exact hmore), ?_⟩
    constructor <;> simp [hcfg, hresp, hphase, hreason, hindex, hcalc', hlen', hp]
  | payloadEnd hp hcell hlast =>
    have hcalc' := hcalc (by rw [hp]; rfl)
    refine ⟨_, .payloadEnd (hphase.trans hp) (hindex ▸ hcell) (by rw [hindex, hlen hp, hlast]), ?_⟩
    constructor <;> simp [hcfg, hresp, hreason, hcalc']
  | crcLow hp hi =>
    have hcalc' := hcalc (by rw [hp]; rfl)
    refine ⟨_, .crcLow (hphase.trans hp) (hindex.trans hi), ?_⟩
    constructor <;> simp [hcfg, hresp, hphase, hreason, hcalc', hp, lowByte_packBytes]
  | crcMatch hp hi hc =>
    have hcalc' := hcalc (by rw [hp]; rfl)
    refine ⟨_, .crcMatch (hphase.trans hp) (hindex ▸ hi) (by rw [hrx hp hi, hcalc', hc]), ?_⟩
    constructor <;> simp [hcfg, hresp, hreason, hcalc']
  | crcMismatch hp hi hc =>
    have hcalc' := hcalc (by rw [hp]; rfl)
    refine ⟨_, .crcMismatch (hphase.trans hp) (hindex ▸ hi) (by rw [hrx hp hi, hcalc']; exact hc), ?_⟩
    constructor <;> simp [hcfg, hresp, hcalc']

theorem FeedAlike.exec_decFeed {b : Byte} {s t s' : State} (h : FeedAlike s t) (hs : exec (.decFeed b) s = .next s') :
    ∃ t', exec (.decFeed b) t = .next t' ∧ FeedAlike s' t' := by
  obtain ⟨hheld, rfl⟩ | ⟨u, hu, rfl⟩ := exec_decFeed_cases hs
  · have hheld' : t.held = true := (congrArg Phase.held h.phase).trans hheld
    exact ⟨_, exec_decFeed_of_held hheld' b, h.respondStatus .busy⟩
  · obtain ⟨v, hv, halike⟩ := h.consumes hu
    exact ⟨_, hv.exec_eq, halike.respondStatus .ok⟩

theorem FeedAlike.feedAll {bytes : List Byte} {s t s' : State} (h : FeedAlike s t) (hs : feedAll bytes s = .next s') :
    ∃ t', feedAll bytes t = .next t' ∧ FeedAlike s' t' := by
  induction bytes generalizing s t with
  | nil => cases hs; exact ⟨t, rfl, h⟩
  | cons b rest ih =>
    obtain ⟨u, hexec, hrest⟩ := feedAll_cons_next_iff.1 hs
    obtain ⟨v, hexec', halike⟩ := h.exec_decFeed hexec
    obtain ⟨t', hrest', halike'⟩ := ih halike hrest
    exact ⟨t', feedAll_cons_next_iff.2 ⟨v, hexec', hrest'⟩, halike'⟩

/-- In WAIT_SYNC1 the invariant leaves nothing else to compare. -/
theorem feedAlike_of_waitSync1 {s t : State} (hs : s.phase = .waitSync1) (ht : t.phase = .waitSync1) (hsinv : s.Inv)
    (htinv : t.Inv) (hcfg : s.cfg = t.cfg) (hresp : s.responses = t.responses) : FeedAlike s t where
  cfg := hcfg.symm
  responses := hresp.symm
  phase := ht.trans hs.symm
  reason := (htinv.reason_eq_none (by rw [ht]; decide)).trans (hsinv.reason_eq_none (by rw [hs]; decide)).symm
  index := (htinv.indexOutside (by rw [ht]; rfl)).trans (hsinv.indexOutside (by rw [hs]; rfl)).symm
  calcReg hacc := by rw [hs] at hacc; cases hacc
  hdrType hp := by rw [hs] at hp; cases hp
  hdrLen hp := by rw [hs] at hp; cases hp
  rxLow hp := by rw [hs] at hp; cases hp

/-- Settles O49: the two states answer alike, and every byte keeps that. -/
theorem earlierFramesDoNotMatter : Obligations.EarlierFramesDoNotMatter := by
  unfold Obligations.EarlierFramesDoNotMatter
  intro s t bytes s' hs ht hsinv htinv hcfg hresp hrun
  obtain ⟨t', hrun', halike⟩ := (feedAlike_of_waitSync1 hs ht hsinv htinv hcfg hresp).feedAll hrun
  exact ⟨t', hrun', halike.responses, halike.phase, halike.reason, halike.index⟩

/-! ### The recovery bound (rules R83, R137) -/

/-- At most how many bytes a frame being received can still take. -/
def State.bytesLeft (s : State) : Nat :=
  match s.phase with
  | .readHeader => 259 - s.index.toNat
  | .readPayload => s.hdrLen.toNat - s.index.toNat + 2
  | .verifyCrc => 2 - s.index.toNat
  | .waitSync1 | .waitSync2 | .loaded | .failure => 0

theorem State.bytesLeft_header {s : State} (hp : s.phase = .readHeader) : s.bytesLeft = 259 - s.index.toNat := by
  rw [State.bytesLeft, hp]

theorem State.bytesLeft_payload {s : State} (hp : s.phase = .readPayload) :
    s.bytesLeft = s.hdrLen.toNat - s.index.toNat + 2 := by
  rw [State.bytesLeft, hp]

theorem State.bytesLeft_crc {s : State} (hp : s.phase = .verifyCrc) : s.bytesLeft = 2 - s.index.toNat := by
  rw [State.bytesLeft, hp]

theorem State.Inv.bytesLeft_pos {s : State} (hinv : s.Inv) (hacc : s.phase.accumulating = true) : 0 < s.bytesLeft := by
  cases hp : s.phase with
  | waitSync1 | waitSync2 | loaded | failure => rw [hp] at hacc; cases hacc
  | readHeader =>
    have hle := hinv.indexTwo (.inl hp)
    rw [State.bytesLeft_header hp]
    omega
  | readPayload => rw [State.bytesLeft_payload hp]; exact Nat.succ_pos _
  | verifyCrc =>
    have hle := hinv.indexTwo (.inr hp)
    rw [State.bytesLeft_crc hp]
    omega

/-- Every byte of a frame ends it or leaves fewer to come. -/
theorem Consumes.bytesLeft_lt {b : Byte} {s t : State} (h : Consumes b s t) (hinv : s.Inv)
    (hacc : s.phase.accumulating = true) :
    t.held = true ∨ (t.phase.accumulating = true ∧ t.bytesLeft < s.bytesLeft) := by
  cases h with
  | discarded hp | syncBegun hp | syncDone hp | syncAgain hp | syncLost hp => rw [hp] at hacc; cases hacc
  | typeByte hp hi =>
    refine .inr ⟨hacc, ?_⟩
    rw [State.bytesLeft_header hp, State.bytesLeft_header (by exact hp), hi]
    exact (by decide : 259 - (1#8 : Byte).toNat < 259 - (0#8 : Byte).toNat)
  | typeUnknown hp hi ht => exact .inl rfl
  | lengthZero hp hi ht hb =>
    have hle := hinv.indexTwo (.inl hp)
    refine .inr ⟨rfl, ?_⟩
    rw [State.bytesLeft_header hp, State.bytesLeft_crc rfl]
    show 2 - 0 < 259 - s.index.toNat
    omega
  | lengthByte hp hi ht hb =>
    have hle := hinv.indexTwo (.inl hp)
    have hlt := b.isLt
    refine .inr ⟨rfl, ?_⟩
    rw [State.bytesLeft_header hp, State.bytesLeft_payload rfl]
    show b.toNat - 0 + 2 < 259 - s.index.toNat
    omega
  | payloadByte hp hcell hmore =>
    have hlt := hinv.indexPayload hp
    refine .inr ⟨hacc, ?_⟩
    rw [State.bytesLeft_payload hp, State.bytesLeft_payload (by exact hp), State.setIndex_index, index_succ_toNat hcell]
    show s.hdrLen.toNat - (s.index.toNat + 1) + 2 < s.hdrLen.toNat - s.index.toNat + 2
    omega
  | payloadEnd hp hcell hlast =>
    have hlt := hinv.indexPayload hp
    refine .inr ⟨rfl, ?_⟩
    rw [State.bytesLeft_payload hp, State.bytesLeft_crc rfl]
    show 2 - 0 < s.hdrLen.toNat - s.index.toNat + 2
    omega
  | crcLow hp hi =>
    refine .inr ⟨hacc, ?_⟩
    rw [State.bytesLeft_crc hp, State.bytesLeft_crc (by exact hp), hi]
    exact (by decide : 2 - (1#8 : Byte).toNat < 2 - (0#8 : Byte).toNat)
  | crcMatch => exact .inl rfl
  | crcMismatch => exact .inl rfl

/-- A stream with as many bytes as the frame can take ends held. -/
theorem held_of_bytesLeft_le (bytes : List Byte) {s t : State} (hinv : s.Inv) (hacc : s.phase.accumulating = true)
    (hlen : s.bytesLeft ≤ bytes.length) (h : feedAll bytes s = .next t) : t.held = true := by
  induction bytes generalizing s with
  | nil =>
    have hpos := hinv.bytesLeft_pos hacc
    rw [List.length_nil] at hlen
    omega
  | cons b rest ih =>
    obtain ⟨u, hexec, hrest⟩ := feedAll_cons_next_iff.1 h
    obtain ⟨hheld, -⟩ | ⟨v, hv, rfl⟩ := exec_decFeed_cases hexec
    · exact absurd ((not_held_of_accumulating hacc).symm.trans hheld) Bool.false_ne_true
    obtain hheld | ⟨hacc', hlt⟩ := hv.bytesLeft_lt hinv hacc
    · exact (State.held_eq_of_decoder_eq (feedAll_of_held (s := v.respondStatus .ok) hheld hrest)).trans hheld
    · refine ih (exec_inv hinv hexec) hacc' ?_ hrest
      rw [List.length_cons] at hlen
      exact Nat.le_of_lt_succ (Nat.lt_of_lt_of_le hlt hlen)

/-- Settles O54: right after a sync a frame can take 259 bytes, and `DEC.ACK` releases the held decoder. -/
theorem heldWithinLongestFrame : Obligations.HeldWithinLongestFrame := by
  unfold Obligations.HeldWithinLongestFrame
  intro s bytes hinv hp hi hlen
  obtain ⟨t, hrun⟩ := feedAll_completes hinv bytes
  have hleft : s.bytesLeft = 259 := by rw [State.bytesLeft, hp, hi]; rfl
  have hheld := held_of_bytesLeft_le bytes hinv (by rw [hp]; rfl) (hleft ▸ hlen) hrun
  exact ⟨t, _, hrun, hheld, exec_decAck_of_held hheld, rfl⟩

end Sys2Proof.Machine
end

section
/-! SUPPORT. Family 'other', frames: the stream of a frame section by section, up to the trailer byte that decides, and
the statements about the round trip, noise before a frame, and a corrupted byte. -/

namespace Sys2Proof.Machine

/-! ### The sections of a frame -/

/-- The stream of one byte that is consumed. -/
theorem Consumes.feedAll_one {b : Byte} {s u : State} (h : Consumes b s u) :
    feedAll [b] s = .next (u.respondStatus .ok) :=
  h.feedAll_cons []

/-- Two streams one after the other. -/
theorem feedAll_append_next {as bs : List Byte} {s u t : State} (h : feedAll as s = .next u)
    (h' : feedAll bs u = .next t) : feedAll (as ++ bs) s = .next t :=
  (feedAll_append h).trans h'

/-- A sync is found from either sync phase: after one `SYNC1` a second one starts it anew. -/
theorem feedAll_sync {s : State} (hp : s.phase = .waitSync1 ∨ s.phase = .waitSync2) :
    ∃ t, feedAll [sync1, sync2] s = .next t ∧ t.phase = .readHeader ∧ t.index = 0#8 := by
  have hfirst : ∃ u, feedAll [sync1] s = .next u ∧ u.phase = .waitSync2 := by
    obtain hp | hp := hp
    · exact ⟨_, (Consumes.syncBegun hp rfl).feedAll_one, rfl⟩
    · exact ⟨_, (Consumes.syncAgain hp rfl).feedAll_one, rfl⟩
  obtain ⟨u, hrun, hu⟩ := hfirst
  exact ⟨_, feedAll_append_next hrun (Consumes.syncDone hu rfl).feedAll_one, rfl, rfl⟩

theorem feedAll_type {s : State} (hp : s.phase = .readHeader) (hi : s.index = 0#8) (dataType : Byte) :
    ∃ t, feedAll [dataType] s = .next t ∧ t.phase = .readHeader ∧ t.index ≠ 0#8 ∧ t.hdrType = dataType :=
  ⟨_, (Consumes.typeByte hp hi).feedAll_one, hp, (by decide : (1#8 : Byte) ≠ 0#8), rfl⟩

theorem feedAll_length {s : State} (hp : s.phase = .readHeader) (hi : s.index ≠ 0#8)
    (ht : (typeSize s.cfg s.hdrType).isSome = true) (n : Byte) :
    ∃ t, feedAll [n] s = .next t ∧ t.phase = (if n = 0#8 then .verifyCrc else .readPayload) ∧ t.index = 0#8 ∧
      t.hdrType = s.hdrType ∧ t.hdrLen = n := by
  by_cases hzero : n = 0#8
  · rw [if_pos hzero]
    exact ⟨_, (Consumes.lengthZero hp hi ht hzero).feedAll_one, rfl, rfl, rfl, rfl⟩
  · rw [if_neg hzero]
    exact ⟨_, (Consumes.lengthByte hp hi ht hzero).feedAll_one, rfl, rfl, rfl, rfl⟩

theorem toNat_lengthByte {payload : List Byte} (hlen : payload.length ≤ 255) :
    (BitVec.ofNat 8 payload.length).toNat = payload.length := by
  rw [BitVec.toNat_ofNat, Nat.mod_eq_of_lt (by omega)]

/-- From a complete sync, the header of a recognised type and its whole payload lead to the trailer. -/
theorem feedAll_header_payload {s : State} (hp : s.phase = .readHeader) (hi : s.index = 0#8) {dataType : Byte}
    {payload : List Byte} (ht : (typeSize s.cfg dataType).isSome = true) (hlen : payload.length ≤ 255) :
    ∃ t, feedAll (headerBytes dataType payload ++ payload) s = .next t ∧ t.phase = .verifyCrc ∧ t.index = 0#8 ∧
      t.hdrType = dataType ∧ t.hdrLen = BitVec.ofNat 8 payload.length ∧ t.payload payload.length = payload := by
  obtain ⟨u, hrun₁, hup, hui, hutype⟩ := feedAll_type hp hi dataType
  have hknown : (typeSize u.cfg u.hdrType).isSome = true := by rw [feedAll_cfg hrun₁, hutype, ht]
  obtain ⟨v, hrun₂, hvp, hvi, hvtype, hvlen⟩ := feedAll_length hup hui hknown (BitVec.ofNat 8 payload.length)
  have hhdr : feedAll (headerBytes dataType payload) s = .next v := feedAll_append_next hrun₁ hrun₂
  have hval : v.hdrLen.toNat = payload.length := by rw [hvlen, toNat_lengthByte hlen]
  have hzero : v.index.toNat = 0 := by rw [hvi]; rfl
  by_cases hnil : payload = []
  · subst hnil
    exact ⟨v, hhdr, hvp, hvi, hvtype.trans hutype, hvlen, rfl⟩
  · have hpos : 0 < payload.length := List.length_pos_iff.2 hnil
    rw [if_neg (by rw [← hvlen]; intro h0; rw [h0] at hval; exact absurd hval (Nat.ne_of_lt hpos))] at hvp
    obtain ⟨t, hrun, htype, hhdrLen, hpay, -, hdone⟩ := feedAll_payload payload v hvp (by omega) (by omega)
    rw [hzero, Nat.zero_add, State.payload_zero, List.nil_append] at hpay
    obtain ⟨htp, hti⟩ := hdone (by omega)
    exact ⟨t, feedAll_append_next hhdr hrun, htp, hti, htype.trans (hvtype.trans hutype), hhdrLen.trans hvlen, hpay⟩

/-- The state holds this header and payload, with the CRC over them (rules R25, R26, R28). -/
structure State.Holds (s : State) (dataType : Byte) (bytes : List Byte) : Prop where
  hdrType : s.hdrType = dataType
  hdrLen : s.hdrLen.toNat = bytes.length
  payload : s.payload bytes.length = bytes
  calcReg : s.calcReg = frameCrc s.cfg.frameSeed dataType bytes

/-- A scanning decoder that has received a frame of a recognised type, whatever its CRC, but for the last byte: it holds
the frame and waits for the high trailer byte. -/
theorem feedAll_frame_but_last {s : State} (hinv : s.Inv) (hp : s.phase = .waitSync1 ∨ s.phase = .waitSync2)
    {dataType : Byte} {payload : List Byte} (ht : (typeSize s.cfg dataType).isSome = true) (hlen : payload.length ≤ 255)
    (lo : Byte) :
    ∃ t, feedAll ([sync1, sync2] ++ (headerBytes dataType payload ++ payload) ++ [lo]) s = .next t ∧ t.Inv ∧
      t.phase = .verifyCrc ∧ t.index ≠ 0#8 ∧ lowByte t.rxcrc = lo ∧ t.cfg = s.cfg ∧ t.Holds dataType payload := by
  obtain ⟨u, hrun₁, hup, hui⟩ := feedAll_sync hp
  obtain ⟨v, hrun₂, hvp, hvi, hvtype, hvlen, hvpay⟩ :=
    feedAll_header_payload hup hui (by rw [feedAll_cfg hrun₁]; exact ht) hlen
  have hrun : feedAll ([sync1, sync2] ++ (headerBytes dataType payload ++ payload)) s = .next v :=
    feedAll_append_next hrun₁ hrun₂
  have hcrc : v.CrcInv := feedAll_crcInv (crcInv_of_sync hp) hrun
  have hval : v.hdrLen.toNat = payload.length := by rw [hvlen, toNat_lengthByte hlen]
  have hcalc : v.calcReg = frameCrc v.cfg.frameSeed dataType payload := by
    rw [hcrc (.inl (by rw [hvp]; rfl)), State.consumed_crc hvp, hval, hvpay, hvtype, hvlen]
    rfl
  have hlow := (Consumes.crcLow (b := lo) hvp hvi).feedAll_one
  have hall := feedAll_append_next hrun hlow
  exact ⟨_, hall, feedAll_inv hinv hall, hvp, (by decide : (1#8 : Byte) ≠ 0#8), lowByte_packBytes _ _,
    feedAll_cfg hall, ⟨hvtype, hval, hvpay, hcalc⟩⟩

theorem status_loaded {s : State} (hp : s.phase = .loaded) (hr : s.reason = .none) (hi : s.index = 0#8) :
    s.status = 0x0025#16 := by
  rw [status_eq_index_append, hp, hr, hi]; rfl

/-- The last byte of a frame that was received with the right CRC. -/
theorem feedAll_last_match {s : State} (hinv : s.Inv) (hp : s.phase = .verifyCrc) (hi : s.index ≠ 0#8)
    {dataType : Byte} {payload : List Byte} (hholds : s.Holds dataType payload) {hi' : Byte}
    (hc : packBytes hi' (lowByte s.rxcrc) = frameCrc s.cfg.frameSeed dataType payload) :
    ∃ t, feedAll [hi'] s = .next t ∧ t.phase = .loaded ∧ t.reason = .none ∧ t.Holds dataType payload ∧
      t.rxcrc = frameCrc s.cfg.frameSeed dataType payload ∧ t.responses = 0x00000025#32 :: s.responses := by
  have hcons := Consumes.crcMatch hp hi (hc.trans hholds.calcReg.symm)
  have hreason : s.reason = .none := hinv.reason_eq_none (by rw [hp]; decide)
  refine ⟨_, hcons.feedAll_one, rfl, hreason, ⟨hholds.hdrType, hholds.hdrLen, hholds.payload, hholds.calcReg⟩, hc, ?_⟩
  exact congrArg (respWord .ok · :: s.responses) (status_loaded (by rfl) (by exact hreason) (by rfl))

/-- The last byte of a frame that was received with a wrong CRC. -/
theorem feedAll_last_mismatch {s : State} (hp : s.phase = .verifyCrc) (hi : s.index ≠ 0#8) {dataType : Byte}
    {payload : List Byte} (hholds : s.Holds dataType payload) {hi' : Byte}
    (hc : packBytes hi' (lowByte s.rxcrc) ≠ frameCrc s.cfg.frameSeed dataType payload) :
    ∃ t, feedAll [hi'] s = .next t ∧ t.phase = .failure ∧ t.reason = .checksum :=
  ⟨_, (Consumes.crcMismatch hp hi fun h => hc (h.trans hholds.calcReg)).feedAll_one, rfl, rfl⟩

/-! ### Well-formed frames (rules R134, R135) -/

theorem packBytes_high_low (v : Half) : packBytes (highByte v) (lowByte v) = v :=
  BitVec.extractLsb'_append_extractLsb' (w := 8) (len := 8)

/-- A frame is everything but its last byte, and that byte. -/
theorem frameBytes_eq (seed : Half) (dataType : Byte) (payload : List Byte) :
    frameBytes seed dataType payload =
      ([sync1, sync2] ++ (headerBytes dataType payload ++ payload) ++ [lowByte (frameCrc seed dataType payload)]) ++
        [highByte (frameCrc seed dataType payload)] := by
  simp [frameBytes, headerBytes]

/-- A scanning decoder that has received a well-formed frame but for its last byte, and then that byte. -/
theorem feedAll_frame {s : State} (hinv : s.Inv) (hp : s.phase = .waitSync1 ∨ s.phase = .waitSync2)
    {dataType : Byte} {payload : List Byte} (ht : (typeSize s.cfg dataType).isSome = true) (hlen : payload.length ≤ 255) :
    ∃ u t, feedAll ([sync1, sync2] ++ (headerBytes dataType payload ++ payload) ++
        [lowByte (frameCrc s.cfg.frameSeed dataType payload)]) s = .next u ∧ u.phase = .verifyCrc ∧
      feedAll (frameBytes s.cfg.frameSeed dataType payload) s = .next t ∧
      t.phase = .loaded ∧ t.reason = .none ∧ t.Holds dataType payload ∧
      t.rxcrc = frameCrc s.cfg.frameSeed dataType payload ∧ t.responses = 0x00000025#32 :: u.responses := by
  obtain ⟨u, hrun, huinv, hup, hui, hlow, hcfg, hholds⟩ :=
    feedAll_frame_but_last hinv hp ht hlen (lowByte (frameCrc s.cfg.frameSeed dataType payload))
  have hmatch : packBytes (highByte (frameCrc s.cfg.frameSeed dataType payload)) (lowByte u.rxcrc) =
      frameCrc u.cfg.frameSeed dataType payload := by
    rw [hlow, packBytes_high_low, hcfg]
  obtain ⟨t, hlast, htp, htr, htholds, htrx, htresp⟩ := feedAll_last_match huinv hup hui hholds hmatch
  refine ⟨u, t, hrun, hup, ?_, htp, htr, htholds, by rw [htrx, hcfg], htresp⟩
  rw [frameBytes_eq]
  exact feedAll_append_next hrun hlast

/-- Settles O51: the sections of the frame lead to the trailer, and the trailer is the CRC over what is held. -/
theorem frameRoundTrip : Obligations.FrameRoundTrip := by
  unfold Obligations.FrameRoundTrip
  intro s dataType payload hinv hp ht hlen
  obtain ⟨u, t, -, -, hrun, htp, htr, hholds, htrx, htresp⟩ := feedAll_frame hinv (.inl hp) ht hlen
  refine ⟨t, hrun, htp, htr, hholds.hdrType, hholds.hdrLen, hholds.payload, htrx, ?_, by rw [htresp]; rfl⟩
  rw [hholds.calcReg, htrx, feedAll_cfg hrun]

/-! ### The responses before an outcome -/

/-- A response that is `OK` and shows Idle or Accumulating. -/
def QuietResponse (r : Word) : Prop :=
  r.extractLsb' 28 4 = 0x0#4 ∧ (r.extractLsb' 4 2 = 0#2 ∨ r.extractLsb' 4 2 = 1#2)

theorem coarse_of_not_held {p : Phase} (h : p.held = false) : p.coarse = 0#2 ∨ p.coarse = 1#2 := by
  cases p with
  | waitSync1 | waitSync2 => exact .inl rfl
  | readHeader | readPayload | verifyCrc => exact .inr rfl
  | loaded | failure => cases h

theorem extractLsb'_statusLow_coarse (p : Phase) (r : Reason) : (statusLow p r).extractLsb' 4 2 = p.coarse := by
  cases p <;> cases r <;> rfl

theorem quietResponse_status {s : State} (hfree : s.held = false) : QuietResponse (respWord .ok s.status) := by
  have hcode : (respWord .ok s.status).extractLsb' 28 4 = 0x0#4 := by
    rw [respWord, BitVec.extractLsb'_append_eq_of_le (by decide)]
    exact BitVec.extractLsb'_append_eq_left
  have hcoarse : (respWord .ok s.status).extractLsb' 4 2 = s.phase.coarse := by
    rw [respWord, BitVec.extractLsb'_append_eq_of_add_le (by decide), status_extractLsb'_low s (by decide : 4 + 2 ≤ 8),
      extractLsb'_statusLow_coarse]
  rw [QuietResponse, hcoarse]
  exact ⟨hcode, coarse_of_not_held hfree⟩

/-- A stream that does not end held gives a quiet response to each byte: once held, a decoder stays held. -/
theorem feedAll_quiet {bytes : List Byte} {s t : State} (h : feedAll bytes s = .next t) (hfree : t.held = false) :
    s.held = false ∧ ∃ earlier, t.responses = earlier ++ s.responses ∧ earlier.length = bytes.length ∧
      ∀ r ∈ earlier, QuietResponse r := by
  induction bytes generalizing s with
  | nil => cases h; exact ⟨hfree, [], rfl, rfl, fun r hr => absurd hr List.not_mem_nil⟩
  | cons b rest ih =>
    obtain ⟨u, hexec, hrest⟩ := feedAll_cons_next_iff.1 h
    obtain ⟨hufree, earlier, hresp, hcount, hquiet⟩ := ih hrest
    obtain ⟨hheld, rfl⟩ | ⟨v, hv, rfl⟩ := exec_decFeed_cases hexec
    · exact absurd (hufree.symm.trans hheld) Bool.false_ne_true
    · obtain ⟨-, -, -, hvresp⟩ := hv.frame
      refine ⟨hv.held_eq_false, earlier ++ [respWord .ok v.status], ?_, ?_, fun r hr => ?_⟩
      · rw [hresp, List.append_assoc, ← hvresp]
        rfl
      · rw [List.length_append, hcount]
        rfl
      · obtain hr | hr := List.mem_append.1 hr
        · exact hquiet r hr
        · rw [List.mem_singleton.1 hr]
          exact quietResponse_status hufree

/-! ### Noise (rule R134) -/

/-- Noise without the sync pair leaves a scanning decoder scanning, where a `SYNC1` that it has already seen counts as the
first byte of the noise. -/
theorem feedAll_noise (noise : List Byte) {s : State}
    (h : (s.phase = .waitSync1 ∧ ¬ [sync1, sync2] <:+: noise) ∨
      (s.phase = .waitSync2 ∧ ¬ [sync1, sync2] <:+: sync1 :: noise)) :
    ∃ t, feedAll noise s = .next t ∧ (t.phase = .waitSync1 ∨ t.phase = .waitSync2) := by
  induction noise generalizing s with
  | nil => exact ⟨s, rfl, h.imp And.left And.left⟩
  | cons b rest ih =>
    obtain ⟨hp, hno⟩ | ⟨hp, hno⟩ := h
    · by_cases hb : b = sync1
      · rw [(Consumes.syncBegun hp hb).feedAll_cons rest]
        exact ih (.inr ⟨rfl, hb ▸ hno⟩)
      · rw [(Consumes.discarded hp hb).feedAll_cons rest]
        exact ih (.inl ⟨hp, fun hin => hno (List.infix_cons hin)⟩)
    · have hno' : ¬ [sync1, sync2] <:+: b :: rest := fun hin => hno (List.infix_cons hin)
      by_cases h2 : b = sync2
      · exact absurd ⟨[], rest, by rw [h2]; rfl⟩ hno
      by_cases h1 : b = sync1
      · rw [(Consumes.syncAgain hp h1).feedAll_cons rest]
        exact ih (.inr ⟨rfl, h1 ▸ hno'⟩)
      · rw [(Consumes.syncLost hp h2 h1).feedAll_cons rest]
        exact ih (.inl ⟨rfl, fun hin => hno' (List.infix_cons hin)⟩)

/-- Settles O52: the noise ends in a sync phase, the frame but for its last byte ends without an outcome, and so every
response before the last is quiet. -/
theorem resyncAfterNoise : Obligations.ResyncAfterNoise := by
  unfold Obligations.ResyncAfterNoise
  intro s noise dataType payload hinv hp hno ht hlen
  obtain ⟨v, hnoise, hvp⟩ := feedAll_noise noise (.inl ⟨hp, hno⟩)
  have hcfg := feedAll_cfg hnoise
  obtain ⟨u, t, hbut, hup, hframe, htp, -, hholds, -, htresp⟩ :=
    feedAll_frame (feedAll_inv hinv hnoise) hvp (by rw [hcfg]; exact ht) hlen
  rw [hcfg] at hframe
  obtain ⟨-, earlier, hresp, hcount, hquiet⟩ :=
    feedAll_quiet (feedAll_append_next hnoise hbut) (by rw [State.held_eq, hup]; rfl)
  refine ⟨t, earlier, feedAll_append_next hnoise hframe, by rw [htresp, hresp], ?_, hquiet, htp, hholds.hdrType,
    hholds.hdrLen, hholds.payload⟩
  rw [hcount]
  simp only [List.length_append, List.length_cons, List.length_nil, headerBytes]
  omega

/-! ### A corrupted byte (rule R136) -/

/-- A frame of a recognised type whose trailer is not its CRC. -/
theorem feedAll_wrong_crc {s : State} (hinv : s.Inv) (hp : s.phase = .waitSync1) {dataType : Byte} {payload : List Byte}
    (ht : (typeSize s.cfg dataType).isSome = true) (hlen : payload.length ≤ 255) {lo hi : Byte}
    (hc : packBytes hi lo ≠ frameCrc s.cfg.frameSeed dataType payload) :
    ∃ t, feedAll ([sync1, sync2] ++ (headerBytes dataType payload ++ payload) ++ [lo] ++ [hi]) s = .next t ∧
      t.phase = .failure ∧ t.reason = .checksum := by
  obtain ⟨u, hrun, -, hup, hui, hlow, hcfg, hholds⟩ := feedAll_frame_but_last hinv (.inl hp) ht hlen lo
  obtain ⟨t, hlast, htp, htr⟩ := feedAll_last_mismatch (hi' := hi) hup hui hholds (by rw [hlow, hcfg]; exact hc)
  exact ⟨t, feedAll_append_next hrun hlast, htp, htr⟩

/-- A frame of an unrecognised type, whatever follows its header. -/
theorem feedAll_unknown_type {s : State} (hinv : s.Inv) (hp : s.phase = .waitSync1) {dataType : Byte}
    (ht : typeSize s.cfg dataType = none) (n : Byte) (rest : List Byte) :
    ∃ t, feedAll ([sync1, sync2] ++ [dataType] ++ [n] ++ rest) s = .next t ∧ t.phase = .failure ∧
      t.reason = .unknownType := by
  obtain ⟨u, hrun₁, hup, hui⟩ := feedAll_sync (.inl hp)
  obtain ⟨v, hrun₂, hvp, hvi, hvtype⟩ := feedAll_type hup hui dataType
  have hrun := feedAll_append_next hrun₁ hrun₂
  have hunknown : typeSize v.cfg v.hdrType = none := by rw [feedAll_cfg hrun, hvtype, ht]
  have hfail := (Consumes.typeUnknown (b := n) hvp hvi hunknown).feedAll_one
  have hall := feedAll_append_next hrun hfail
  obtain ⟨t, hrest⟩ := feedAll_completes (feedAll_inv hinv hall) rest
  have hkept := feedAll_of_held rfl hrest
  exact ⟨t, feedAll_append_next hall hrest, congrArg Decoder.phase hkept, congrArg Decoder.reason hkept⟩

theorem crcCalc_set_ne {bytes : List Byte} {j : Nat} {b : Byte} (hj : j < bytes.length) (hb : bytes[j]? ≠ some b)
    (seed : Half) : crcCalc (bytes.set j b) seed ≠ crcCalc bytes seed := by
  have hsplit : bytes = bytes.take j ++ bytes[j] :: bytes.drop (j + 1) := by
    rw [← List.drop_eq_getElem_cons hj, List.take_append_drop]
  have hne : b ≠ bytes[j] := fun h => hb (by rw [List.getElem?_eq_getElem hj, h])
  conv_rhs => rw [hsplit]
  rw [List.set_eq_take_append_cons_drop, if_pos hj]
  exact crcCalc_ne_of_byte_ne _ _ seed hne

theorem frameCrc_set_ne {payload : List Byte} {j : Nat} {b : Byte} (hj : j < payload.length) (hb : payload[j]? ≠ some b)
    (seed : Half) (dataType : Byte) : frameCrc seed dataType (payload.set j b) ≠ frameCrc seed dataType payload := by
  have hbytes : headerBytes dataType (payload.set j b) ++ payload.set j b =
      (headerBytes dataType payload ++ payload).set (j + 2) b := by
    simp [headerBytes]
  rw [frameCrc, frameCrc, hbytes]
  exact crcCalc_set_ne (bytes := headerBytes dataType payload ++ payload) (Nat.add_lt_add_right hj 2) hb seed

theorem frameCrc_ne_of_type {seed : Half} {x b : Byte} (payload : List Byte) (hx : x ≠ b) :
    frameCrc seed x payload ≠ frameCrc seed b payload :=
  crcCalc_ne_of_byte_ne [] _ seed hx

theorem packBytes_low_ne {v : Half} {b : Byte} (h : lowByte v ≠ b) : packBytes (highByte v) b ≠ v := fun heq =>
  h (by rw [← lowByte_packBytes (highByte v) b, heq])

theorem highByte_packBytes (hi lo : Byte) : highByte (packBytes hi lo) = hi := BitVec.extractLsb'_append_eq_left

theorem packBytes_high_ne {v : Half} {b : Byte} (h : highByte v ≠ b) : packBytes b (lowByte v) ≠ v := fun heq =>
  h (by rw [← highByte_packBytes b (lowByte v), heq])

/-- A payload or trailer byte changed: the trailer received is not the CRC over the payload received. -/
theorem feedAll_corrupted {s : State} (hinv : s.Inv) (hp : s.phase = .waitSync1) {dataType : Byte} {payload : List Byte}
    (ht : (typeSize s.cfg dataType).isSome = true) (hlen : payload.length ≤ 255) {j : Nat} {b : Byte}
    (hj : j < payload.length + 2) (hb : (frameBytes s.cfg.frameSeed dataType payload)[j + 4]? ≠ some b) :
    ∃ t, feedAll ((frameBytes s.cfg.frameSeed dataType payload).set (j + 4) b) s = .next t ∧ t.phase = .failure ∧
      t.reason = .checksum := by
  generalize hcrc : frameCrc s.cfg.frameSeed dataType payload = crc
  have hframe : frameBytes s.cfg.frameSeed dataType payload =
      sync1 :: sync2 :: dataType :: BitVec.ofNat 8 payload.length :: (payload ++ [lowByte crc, highByte crc]) := by
    rw [← hcrc]; rfl
  rw [hframe] at hb ⊢
  replace hb : (payload ++ [lowByte crc, highByte crc])[j]? ≠ some b := hb
  show ∃ t, feedAll (sync1 :: sync2 :: dataType :: BitVec.ofNat 8 payload.length ::
    (payload ++ [lowByte crc, highByte crc]).set j b) s = .next t ∧ _
  obtain hpay | hlow | hhigh : j < payload.length ∨ j = payload.length ∨ j = payload.length + 1 := by omega
  · rw [List.getElem?_append_left hpay] at hb
    have hwrong := frameCrc_set_ne hpay hb s.cfg.frameSeed dataType
    rw [hcrc, ← packBytes_high_low crc] at hwrong
    have hrun := feedAll_wrong_crc hinv hp ht (by rw [List.length_set]; exact hlen) hwrong.symm
    rw [List.set_append_left _ _ hpay]
    simpa [headerBytes] using hrun
  · subst hlow
    have hne : lowByte crc ≠ b := by simpa using hb
    have hrun := feedAll_wrong_crc (hi := highByte crc) (lo := b) hinv hp ht hlen
      (by rw [hcrc]; exact packBytes_low_ne hne)
    simpa [headerBytes] using hrun
  · subst hhigh
    have hne : highByte crc ≠ b := by simpa using hb
    have hrun := feedAll_wrong_crc (hi := b) (lo := lowByte crc) hinv hp ht hlen
      (by rw [hcrc]; exact packBytes_high_ne hne)
    simpa [headerBytes] using hrun

/-- Settles O53: a changed payload byte changes the CRC over the payload, a changed trailer byte the CRC received, and a
changed type byte the type or again the CRC. -/
theorem oneCorruptedByteFailsFrame : Obligations.OneCorruptedByteFailsFrame := by
  unfold Obligations.OneCorruptedByteFailsFrame
  intro s dataType payload k b hinv hp ht hlen hk hb
  refine ⟨fun hk4 => ?_, fun hk2 => ?_⟩
  · obtain ⟨j, rfl⟩ := Nat.exists_eq_add_of_le' hk4
    exact feedAll_corrupted hinv hp ht hlen (by omega) hb
  · subst hk2
    have hne : dataType ≠ b := fun h => hb (congrArg some h)
    cases hunknown : typeSize s.cfg b with
    | none =>
      rw [if_pos rfl]
      exact feedAll_unknown_type hinv hp hunknown (BitVec.ofNat 8 payload.length) _
    | some n =>
      rw [if_neg (Option.some_ne_none n)]
      have hwrong := frameCrc_ne_of_type (seed := s.cfg.frameSeed) payload hne
      rw [← packBytes_high_low (frameCrc s.cfg.frameSeed dataType payload)] at hwrong
      have hrun := feedAll_wrong_crc hinv hp (by rw [hunknown]; rfl) hlen hwrong
      simpa [headerBytes, frameBytes] using hrun

end Sys2Proof.Machine
end

section
/-! SUPPORT. Family 'other', assembler: operand ranges, and the reading of a line that the disassembler writes, in either
letter case (rule R78). -/

namespace Sys2Proof.Machine

/-! ### Operand ranges -/

theorem immField_ofNat (n : Nat) : immField (BitVec.ofNat 32 n) = BitVec.ofNat 16 n := by
  apply BitVec.eq_of_toNat_eq
  simp [immField]

theorem immByte_ofNat (n : Nat) : immByte (BitVec.ofNat 32 n) = BitVec.ofNat 8 n := by
  apply BitVec.eq_of_toNat_eq
  simp [immByte]

/-- The assembler's operation is the one that the decoder reads from a word with this operand. -/
theorem asmInstr_eq (c : AsmCommand) :
    asmInstr c = if c.wellFormed then some (c.op.withOperand (BitVec.ofNat 32 (c.operand.getD 0))) else none := by
  obtain ⟨o, operand⟩ := c
  cases o with
  | crcLoad => simp only [asmInstr, Op.withOperand, immField_ofNat]
  | crcByte | decFeed | decPay => simp only [asmInstr, Op.withOperand, immByte_ofNat]
  | crcRead | decAck | decStatus | decHdr | decRxcrc | decCalc | decReset => rfl

/-- An operand that a form admits is a 16-bit number that leaves the unused bits of `IMM` zero. -/
theorem admits_operand {f : OperandForm} {operand : Option Nat} (h : f.admits operand = true) :
    operand.getD 0 < 65536 ∧ f.unusedZero (BitVec.ofNat 16 (operand.getD 0)) = true := by
  cases f with
  | imm16 =>
    cases operand with
    | none => cases h
    | some n => exact ⟨of_decide_eq_true h, rfl⟩
  | imm8 =>
    cases operand with
    | none => cases h
    | some n =>
      have hn : n < 256 := of_decide_eq_true h
      refine ⟨Nat.lt_trans hn (by decide), beq_iff_eq.2 (BitVec.eq_of_toNat_eq ?_)⟩
      rw [BitVec.extractLsb'_toNat, BitVec.toNat_ofNat, Nat.shiftRight_eq_div_pow]
      show n % 2 ^ 16 / 2 ^ 8 % 2 ^ 8 = 0
      omega
  | none =>
    cases operand with
    | none => exact ⟨by decide, rfl⟩
    | some n => cases h

theorem asmInstr_isSome (c : AsmCommand) : (asmInstr c).isSome = c.wellFormed := by
  rw [asmInstr_eq]
  cases c.wellFormed <;> rfl

theorem asmInstr_eq_none_iff (c : AsmCommand) : asmInstr c = none ↔ c.wellFormed = false := by
  rw [← asmInstr_isSome, Option.isSome_eq_false_iff, Option.isNone_iff_eq_none]

/-- Settles O6: a command in range keeps its operation, and its operand is the whole `IMM`. -/
theorem assemblerChecksOperandRange : Obligations.AssemblerChecksOperandRange := by
  unfold Obligations.AssemblerChecksOperandRange
  have himm16 (n : Nat) (o : Op) (ho : o.form = .imm16) : asmInstr ⟨o, some n⟩ = none ↔ 65535 < n := by
    rw [asmInstr_eq_none_iff, AsmCommand.wellFormed, ho]
    exact decide_eq_false_iff_not.trans Nat.not_lt
  have himm8 (n : Nat) (o : Op) (ho : o.form = .imm8) : asmInstr ⟨o, some n⟩ = none ↔ 255 < n := by
    rw [asmInstr_eq_none_iff, AsmCommand.wellFormed, ho]
    exact decide_eq_false_iff_not.trans Nat.not_lt
  refine ⟨asmInstr_isSome, fun c i h => ?_, fun n => himm16 n _ rfl, fun n => himm8 n _ rfl, fun n => himm8 n _ rfl,
    fun n => himm8 n _ rfl⟩
  have hwf : c.wellFormed = true := by rw [← asmInstr_isSome, h]; rfl
  obtain ⟨hlt, hunused⟩ := admits_operand hwf
  rw [asmInstr_eq, if_pos hwf] at h
  cases h
  refine ⟨op_withOperand _ _, fun n hn => ?_⟩
  rw [hn] at hlt hunused ⊢
  rw [imm_withOperand (by rw [immField_ofNat]; exact hunused), immField_ofNat, BitVec.toNat_ofNat]
  exact Nat.mod_eq_of_lt hlt

/-! ### The words of a line -/

/-- A character that neither ends a word nor starts a comment. -/
def plain (c : Char) : Bool := !(c == ';') && !separator c

theorem lineWords_append {cs : List Char} (h : ∀ c ∈ cs, plain c = true) (word rest : List Char) :
    lineWords word (cs ++ rest) = lineWords (word ++ cs) rest := by
  induction cs generalizing word with
  | nil => rw [List.append_nil]; rfl
  | cons c cs ih =>
    have hc := h c (List.mem_cons_self ..)
    simp only [plain, Bool.and_eq_true, Bool.not_eq_true'] at hc
    obtain ⟨hcomment, hsep⟩ := hc
    rw [List.cons_append, lineWords, hcomment, hsep]
    simp only [Bool.false_eq_true, if_false]
    rw [ih fun d hd => h d (List.mem_cons_of_mem c hd), List.append_assoc]
    rfl

/-- A line of one word. -/
theorem lineWords_one {cs : List Char} (h : ∀ c ∈ cs, plain c = true) (hne : cs ≠ []) : lineWords [] cs = [cs] := by
  have hrun := lineWords_append h [] []
  rw [List.append_nil, List.nil_append] at hrun
  rw [hrun, lineWords, if_neg (by simpa using hne)]

/-- A line of a word, a space and more. -/
theorem lineWords_space {cs : List Char} (h : ∀ c ∈ cs, plain c = true) (hne : cs ≠ []) (rest : List Char) :
    lineWords [] (cs ++ ' ' :: rest) = cs :: lineWords [] rest := by
  have hsemi : (' ' == ';') = false := by decide
  have hsep : separator ' ' = true := by decide
  rw [lineWords_append h, List.nil_append, lineWords, hsemi, hsep, if_neg Bool.false_ne_true, if_pos rfl,
    if_neg (by simpa using hne)]

/-! ### Hexadecimal numbers -/

theorem digitsValue_append (base acc : Nat) (cs ds : List Char) :
    digitsValue base acc (cs ++ ds) = (digitsValue base acc cs).bind fun a => digitsValue base a ds := by
  induction cs generalizing acc with
  | nil => rfl
  | cons c cs ih =>
    rw [List.cons_append, digitsValue, digitsValue]
    cases digitValue c with
    | none => rfl
    | some d =>
      dsimp only
      split
      · exact ih _
      · rfl

/-- A way to write text, as it is or in lower case, that the assembler reads alike. -/
structure Readable (f : Char → Char) : Prop where
  digit : ∀ d, d < 16 → digitValue (f (hexDigit d)) = some d
  plainDigit : ∀ d, d < 16 → plain (f (hexDigit d)) = true
  space : f ' ' = ' '
  zero : f '0' = '0'
  mark : f 'x' = 'x'
  name : ∀ o, ((mnemonic o).map f).map Char.toUpper = mnemonic o
  plainName : ∀ o, ((mnemonic o).map f).all plain = true

theorem readable_id : Readable id where
  digit := by decide
  plainDigit := by decide
  space := rfl
  zero := rfl
  mark := rfl
  name o := by cases o <;> decide
  plainName o := by cases o <;> decide

theorem readable_toLower : Readable Char.toLower where
  digit := by decide
  plainDigit := by decide
  space := by decide
  zero := by decide
  mark := by decide
  name o := by cases o <;> decide
  plainName o := by cases o <;> decide

theorem map_mnemonic_ne_nil (f : Char → Char) (o : Op) : (mnemonic o).map f ≠ [] := by
  cases o <;> exact List.cons_ne_nil _ _

/-! ### The operation of a line -/

/-- An operation's operand, written as a number, is in range and gives the operation back. -/
theorem asmInstr_imm {i : Instr} (hform : i.op.form ≠ .none) : asmInstr ⟨i.op, some i.imm.toNat⟩ = some i := by
  have hhalf (v : Half) : (OperandForm.imm16).admits (some v.toNat) = true ∧ immField (BitVec.ofNat 32 v.toNat) = v :=
    ⟨decide_eq_true v.isLt, by rw [immField_ofNat, BitVec.ofNat_toNat, BitVec.setWidth_eq]⟩
  have hbyte (b : Byte) : (OperandForm.imm8).admits (some (b.setWidth 16).toNat) = true ∧
      immByte (BitVec.ofNat 32 (b.setWidth 16).toNat) = b := by
    rw [BitVec.toNat_setWidth_of_le (by decide), immByte_ofNat, BitVec.ofNat_toNat, BitVec.setWidth_eq]
    exact ⟨decide_eq_true b.isLt, rfl⟩
  rw [asmInstr_eq]
  cases i with
  | crcLoad seed => exact (if_pos (hhalf seed).1).trans (congrArg (some ∘ Instr.crcLoad) (hhalf seed).2)
  | crcByte b => exact (if_pos (hbyte b).1).trans (congrArg (some ∘ Instr.crcByte) (hbyte b).2)
  | decFeed b => exact (if_pos (hbyte b).1).trans (congrArg (some ∘ Instr.decFeed) (hbyte b).2)
  | decPay b => exact (if_pos (hbyte b).1).trans (congrArg (some ∘ Instr.decPay) (hbyte b).2)
  | crcRead | decAck | decStatus | decHdr | decRxcrc | decCalc | decReset => exact absurd rfl hform

theorem assembleOp_imm {i : Instr} (hform : i.op.form ≠ .none) : assembleOp i.op [i.imm.toNat] = .ok (.instr i) := by
  have hok : assembleOp.ok i.op (some i.imm.toNat) = .ok (.instr i) := by rw [assembleOp.ok, asmInstr_imm hform]
  cases i with
  | crcLoad | crcByte | decFeed | decPay => exact hok
  | crcRead | decAck | decStatus | decHdr | decRxcrc | decCalc | decReset => exact absurd rfl hform

section

variable {f : Char → Char} (hf : Readable f)
include hf

theorem digitsValue_hexDigits (k n : Nat) : digitsValue 16 0 ((hexDigits k n).map f) = some (n % 16 ^ k) := by
  induction k generalizing n with
  | zero => rw [pow_zero, Nat.mod_one]; rfl
  | succ k ih =>
    have hlt : n % 16 < 16 := Nat.mod_lt n (by decide)
    rw [hexDigits, List.map_append, digitsValue_append, ih, Option.bind_some, List.map_singleton, digitsValue,
      hf.digit _ hlt]
    simp only [hlt, if_true, digitsValue, Option.some.injEq]
    rw [pow_succ', Nat.mod_mul]
    ring

theorem plain_hexDigits (k n : Nat) : ∀ c ∈ (hexDigits k n).map f, plain c = true := by
  induction k generalizing n with
  | zero => intro c hc; cases hc
  | succ k ih =>
    intro c hc
    rw [hexDigits, List.map_append] at hc
    obtain hc | hc := List.mem_append.1 hc
    · exact ih _ c hc
    · rw [List.map_singleton, List.mem_singleton] at hc
      exact hc ▸ hf.plainDigit _ (Nat.mod_lt n (by decide))

/-- A marked hexadecimal number of at least one digit. -/
theorem numberValue_hexDigits {k n : Nat} (hk : 0 < k) (hn : n < 16 ^ k) :
    numberValue ('0' :: 'x' :: (hexDigits k n).map f) = some n := by
  have hvalue := digitsValue_hexDigits hf k n
  rw [Nat.mod_eq_of_lt hn] at hvalue
  cases hdigits : (hexDigits k n).map f with
  | nil =>
    obtain ⟨k, rfl⟩ := Nat.exists_eq_succ_of_ne_zero (Nat.ne_of_gt hk)
    simp [hexDigits] at hdigits
  | cons c cs => rw [hdigits] at hvalue; exact hvalue

theorem find_mnemonic (o : Op) : (Op.all.find? fun p => mnemonic p == ((mnemonic o).map f).map Char.toUpper) = some o := by
  rw [hf.name]
  cases o <;> decide

theorem plain_name (o : Op) : ∀ c ∈ (mnemonic o).map f, plain c = true := List.all_eq_true.1 (hf.plainName o)

/-- A line with a mnemonic and a number. -/
theorem assembleLine_hex {o : Op} {k n : Nat} {x : AsmItem} (hk : 0 < k) (hn : n < 16 ^ k)
    (hitem : assembleOp o [n] = .ok x) :
    assembleLine ((mnemonic o ++ (" 0x".toList ++ hexDigits k n)).map f) = .ok (some x) := by
  have htext : (mnemonic o ++ (" 0x".toList ++ hexDigits k n)).map f =
      (mnemonic o).map f ++ ' ' :: '0' :: 'x' :: (hexDigits k n).map f := by
    rw [List.map_append, show " 0x".toList ++ hexDigits k n = ' ' :: '0' :: 'x' :: hexDigits k n from rfl, List.map_cons,
      List.map_cons, List.map_cons, hf.space, hf.zero, hf.mark]
  have hplain : ∀ c ∈ '0' :: 'x' :: (hexDigits k n).map f, plain c = true := by
    intro c hc
    obtain rfl | rfl | hc : c = '0' ∨ c = 'x' ∨ c ∈ (hexDigits k n).map f := by simpa using hc
    · decide
    · decide
    · exact plain_hexDigits hf k n c hc
  have hwords : lineWords [] ((mnemonic o).map f ++ ' ' :: '0' :: 'x' :: (hexDigits k n).map f) =
      [(mnemonic o).map f, '0' :: 'x' :: (hexDigits k n).map f] := by
    rw [lineWords_space (plain_name hf o) (map_mnemonic_ne_nil f o), lineWords_one hplain (List.cons_ne_nil _ _)]
  simp only [assembleLine, htext, hwords, operandValues, numberValue_hexDigits hf hk hn, find_mnemonic hf o, hitem]

/-- A line with a mnemonic alone. -/
theorem assembleLine_name {o : Op} {x : AsmItem} (hitem : assembleOp o [] = .ok x) :
    assembleLine ((mnemonic o).map f) = .ok (some x) := by
  simp only [assembleLine, lineWords_one (plain_name hf o) (map_mnemonic_ne_nil f o), operandValues,
    find_mnemonic hf o, hitem]

theorem assembleLine_disassemble (i : Instr) : assembleLine ((disassemble i).map f) = .ok (some (.instr i)) := by
  have hbyte {i : Instr} {b : Byte} (hform : i.op.form ≠ .none) (himm : i.imm = b.setWidth 16) :
      assembleLine ((mnemonic i.op ++ (" 0x".toList ++ hexDigits 2 b.toNat)).map f) = .ok (some (.instr i)) := by
    have hvalue : i.imm.toNat = b.toNat := by rw [himm, BitVec.toNat_setWidth_of_le (by decide)]
    exact assembleLine_hex hf (by decide) b.isLt (by rw [← hvalue]; exact assembleOp_imm hform)
  cases i with
  | crcLoad seed =>
    exact assembleLine_hex hf (by decide) seed.isLt
      (assembleOp_imm (i := .crcLoad seed) (by decide : OperandForm.imm16 ≠ .none))
  | crcByte b => exact hbyte (i := .crcByte b) (by decide : OperandForm.imm8 ≠ .none) rfl
  | decFeed b => exact hbyte (i := .decFeed b) (by decide : OperandForm.imm8 ≠ .none) rfl
  | decPay b => exact hbyte (i := .decPay b) (by decide : OperandForm.imm8 ≠ .none) rfl
  | crcRead | decAck | decStatus | decHdr | decRxcrc | decCalc | decReset =>
    rw [disassemble, List.append_nil]
    exact assembleLine_name hf rfl

end

/-- Settles O7: the line is the mnemonic and, where there is an operand, its digits; both are read back in either
case. -/
theorem assembleOfDisassembleIsIdentity : Obligations.AssembleOfDisassembleIsIdentity := by
  unfold Obligations.AssembleOfDisassembleIsIdentity
  intro i
  have hupper := assembleLine_disassemble readable_id i
  rw [List.map_id] at hupper
  exact ⟨hupper, assembleLine_disassemble readable_toLower i⟩

end Sys2Proof.Machine
end
